-- ==== Sys2Proof/Word.lean ====
section
/-! DEFINITION. The word types of the machine (spec/00_scope.md R8, R9; spec/10_state.md R22 to R26). -/

namespace Sys2Proof

/-- A byte: a general register, a timer, one cell of memory (R21, R22, R30). -/
abbrev Byte := BitVec 8

/-- A 16-bit word: an instruction word, `pc`, `I`, a stack entry (R24, R25, R26, R65). -/
abbrev Word := BitVec 16

/-- A 4-bit field of an instruction word (R66). -/
abbrev Nibble := BitVec 4

/-- The 12-bit address immediate `nnn` (R66, R68). -/
abbrev Addr12 := BitVec 12

/-- The number of a general register, V0 to VF (R22). -/
abbrev Reg := Fin 16

/-- The 80 bytes of the font table, 16 glyphs of 5 rows (R7 `FONT`, R46). -/
abbrev Font := Vector Byte 80

end Sys2Proof
end

