-- ==== Sys2Proof/Config.lean ====
section
/-! DEFINITION. What an implementation fixes (spec/00_scope.md R7) and the free values of the model. -/

namespace Sys2Proof

/-- `ADDR_POLICY` (R7, R48): what an address above 0xFFF does. -/
inductive AddrPolicy where
  | wrap12  -- reduced modulo 4096
  | fault   -- raises ADDRESS_RANGE
deriving DecidableEq, Repr

/-- `KEY_INDEX_POLICY` (R7, R117): what a key index V[x] > 0xF does in EX9E and EXA1. -/
inductive KeyIndexPolicy where
  | fault   -- raises KEY_INDEX_RANGE
  | mask4   -- the low four bits are the index
deriving DecidableEq, Repr

/-- The parameters the spec says a model takes as an argument (R7). A machine's configuration is
fixed: no instruction and no host event writes it.
DESIGN CHOICE (log 5): the argument rides in `State.cfg`, so that a statement over all states is a
statement over all configurations. -/
structure Config where
  /-- `ADDR_POLICY`. -/
  addrPolicy : AddrPolicy
  /-- `KEY_INDEX_POLICY`. -/
  keyIndexPolicy : KeyIndexPolicy
  /-- `FONT`: the bytes Reset places at 0x000 to 0x04F. -/
  font : Font
  /-- `SPRITE_MSB_LEFT`: bit 7 of a sprite byte is its leftmost pixel (R162). -/
  spriteMsbLeft : Bool
deriving DecidableEq, Repr

/-- The free random stream (R151: "a free 8-bit input"). It has no body, so nothing can be proved of
its values: a statement that mentions it holds for every stream. `State.drawCount` says which of its
bytes comes next. DESIGN CHOICE in its form (log 6), safe. -/
opaque Config.randomByte : Nat → Byte

end Sys2Proof
end

