-- ==== Sys2Proof/Machine/Defaults.lean ====
section
/-! DEFINITION. The spec's default parameters (spec/00_scope.md R7): they stand here, not in Config,
so that a repair may change them. -/

namespace Sys2Proof.Machine

/-- The default `FONT`: the conventional CHIP-8 glyphs as R46 lists them, five rows a glyph.
PRESUMED (log 3), unsafe: the spec marks the bytes "from general knowledge, not in source". -/
def conventionalFont : Font :=
  (#v[0xF0, 0x90, 0x90, 0x90, 0xF0] : Vector Byte 5) ++    -- 0
  (#v[0x20, 0x60, 0x20, 0x20, 0x70] : Vector Byte 5) ++    -- 1
  (#v[0xF0, 0x10, 0xF0, 0x80, 0xF0] : Vector Byte 5) ++    -- 2
  (#v[0xF0, 0x10, 0xF0, 0x10, 0xF0] : Vector Byte 5) ++    -- 3
  (#v[0x90, 0x90, 0xF0, 0x10, 0x10] : Vector Byte 5) ++    -- 4
  (#v[0xF0, 0x80, 0xF0, 0x10, 0xF0] : Vector Byte 5) ++    -- 5
  (#v[0xF0, 0x80, 0xF0, 0x90, 0xF0] : Vector Byte 5) ++    -- 6
  (#v[0xF0, 0x10, 0x20, 0x40, 0x40] : Vector Byte 5) ++    -- 7
  (#v[0xF0, 0x90, 0xF0, 0x90, 0xF0] : Vector Byte 5) ++    -- 8
  (#v[0xF0, 0x90, 0xF0, 0x10, 0xF0] : Vector Byte 5) ++    -- 9
  (#v[0xF0, 0x90, 0xF0, 0x90, 0x90] : Vector Byte 5) ++    -- A
  (#v[0xE0, 0x90, 0xE0, 0x90, 0xE0] : Vector Byte 5) ++    -- B
  (#v[0xF0, 0x80, 0x80, 0x80, 0xF0] : Vector Byte 5) ++    -- C
  (#v[0xE0, 0x90, 0x90, 0x90, 0xE0] : Vector Byte 5) ++    -- D
  (#v[0xF0, 0x80, 0xF0, 0x80, 0xF0] : Vector Byte 5) ++    -- E
  (#v[0xF0, 0x80, 0xF0, 0x80, 0x80] : Vector Byte 5)       -- F

/-- The spec's default of every open parameter (R7; log 1, 2, 3, 4). -/
def defaultConfig : Config where
  addrPolicy := .wrap12
  keyIndexPolicy := .fault
  font := conventionalFont
  spriteMsbLeft := true

end Sys2Proof.Machine
end

