-- ==== Sys2Proof/Syntax.lean ====
section
/-! DEFINITION. The instructions: one constructor per row of spec/opcode_table.json
(spec/30_encoding.md R72). -/

namespace Sys2Proof

/-- A decoded instruction. A constructor is named `op` and then the spec's pattern for the row.
Where dispatch ignores a field of the word (R70, R71, R73; the `y` of the two shifts, R129, R131),
the constructor keeps the ignored bits: no meaning depends on them, and they are what makes the
instruction word of an error record recoverable (R182; DESIGN CHOICE in its form, log 12). -/
inductive Instr where
  /-- Clear the screen (R164). `x` is ignored. -/
  | op00E0 (x : Nibble)
  /-- Return from subroutine (R101). `x` is ignored. -/
  | op00EE (x : Nibble)
  /-- Jump (R102). -/
  | op1NNN (nnn : Addr12)
  /-- Call subroutine (R103). -/
  | op2NNN (nnn : Addr12)
  /-- Skip if V[x] = nn (R111). -/
  | op3XNN (x : Reg) (nn : Byte)
  /-- Skip if V[x] ≠ nn (R112). -/
  | op4XNN (x : Reg) (nn : Byte)
  /-- Skip if V[x] = V[y] (R113). `n` is ignored. -/
  | op5XY0 (x y : Reg) (n : Nibble)
  /-- V[x] ← nn (R121). -/
  | op6XNN (x : Reg) (nn : Byte)
  /-- V[x] ← V[x] + nn, no flag (R122). -/
  | op7XNN (x : Reg) (nn : Byte)
  /-- V[x] ← V[y] (R123). -/
  | op8XY0 (x y : Reg)
  /-- V[x] ← V[x] OR V[y] (R124). -/
  | op8XY1 (x y : Reg)
  /-- V[x] ← V[x] AND V[y] (R125). -/
  | op8XY2 (x y : Reg)
  /-- V[x] ← V[x] XOR V[y] (R126). -/
  | op8XY3 (x y : Reg)
  /-- V[x] ← V[x] + V[y], VF ← carry (R127). -/
  | op8XY4 (x y : Reg)
  /-- V[x] ← V[x] - V[y], VF ← no borrow (R128). -/
  | op8XY5 (x y : Reg)
  /-- V[x] ← V[x] >> 1, VF ← bit shifted out (R129). `y` is ignored. -/
  | op8XY6 (x y : Reg)
  /-- V[x] ← V[y] - V[x], VF ← no borrow (R130). -/
  | op8XY7 (x y : Reg)
  /-- V[x] ← V[x] << 1, VF ← bit shifted out (R131). `y` is ignored. -/
  | op8XYE (x y : Reg)
  /-- Skip if V[x] ≠ V[y] (R114). `n` is ignored. -/
  | op9XY0 (x y : Reg) (n : Nibble)
  /-- I ← nnn (R141). -/
  | opANNN (nnn : Addr12)
  /-- Jump to nnn + V0 (R104). -/
  | opBNNN (nnn : Addr12)
  /-- V[x] ← random byte AND nn (R150). -/
  | opCXNN (x : Reg) (nn : Byte)
  /-- Draw `n` rows of a sprite at (V[x], V[y]) (R161). -/
  | opDXYN (x y : Reg) (n : Nat)
  /-- Skip if key V[x] is pressed (R115). -/
  | opEX9E (x : Reg)
  /-- Skip if key V[x] is not pressed (R116). -/
  | opEXA1 (x : Reg)
  /-- V[x] ← DT (R170). -/
  | opFX07 (x : Reg)
  /-- Wait for a key, then store its index (R173). -/
  | opFX0A (x : Reg)
  /-- DT ← V[x] (R171). -/
  | opFX15 (x : Reg)
  /-- ST ← V[x] (R172). -/
  | opFX18 (x : Reg)
  /-- I ← I + V[x], VF ← sum > 0xFFF (R142). -/
  | opFX1E (x : Reg)
  /-- I ← V[x] * 5 (R143). -/
  | opFX29 (x : Reg)
  /-- Store the decimal digits of V[x] at I (R144). -/
  | opFX33 (x : Reg)
  /-- Store V[0] to V[x] at I, then I ← I + x + 1 (R145). -/
  | opFX55 (x : Reg)
  /-- Load V[0] to V[x] from I, then I ← I + x + 1 (R146). -/
  | opFX65 (x : Reg)
deriving DecidableEq, Repr

end Sys2Proof
end

