-- ==== Sys2Proof/Machine/State.lean ====
section
/-! DEFINITION. The state of the machine (spec/10_state.md), as plain data, and its value after reset. -/

namespace Sys2Proof.Machine

/-- Memory: the bytes that differ from the reset contents, by strictly rising address
(`Memory.wf`, Machine/Ops.lean). -/
abbrev Memory := List Host.Cell

/-- The framebuffer: 32 rows of 64 cells; row first, then column (R28). -/
abbrev Screen := Vector (Vector Bool 64) 32

/-- The error causes (spec/60_exceptions.md R181); `Cause.code` gives the numeric code. -/
inductive Cause where
  | unknownOpcode   -- 1: a report, never fatal
  | stackOverflow   -- 2: 2NNN with sp = 16
  | stackUnderflow  -- 3: 00EE with sp = 0
  | addressRange    -- 4: only when ADDR_POLICY = fault
  | keyIndexRange   -- 5: only when KEY_INDEX_POLICY = fault
deriving DecidableEq, Repr

/-- A record of the error channel `err_out` (R182). -/
structure ErrorRecord where
  cause : Cause
  /-- The address of the instruction that raised it. -/
  pc : Word
  /-- The instruction word; none for an ADDRESS_RANGE raised by the fetch itself. -/
  w : Option Word
  /-- The faulting address at full precision, or the key index V[x]; otherwise none. -/
  info : Option Nat
deriving DecidableEq, Repr

/-- The events the host applies (R38, R39). -/
inductive Event where
  /-- Reset (spec/70_reset_and_hazards.md R200, R207). -/
  | reset
  /-- Load a ROM image at 0x200 (R202, R203). -/
  | load (rom : List Byte)
  /-- One instruction, with the draw `r` (spec/30_encoding.md R82). -/
  | step (r : Byte)
  /-- The timer tick (spec/46_timers_keys.md R174). -/
  | tick
  /-- Key `k` is now pressed, or not (R39). -/
  | keySet (k : Fin 16) (pressed : Bool)
  /-- The presenter has drawn the screen (R39, R165). -/
  | drawAck
deriving DecidableEq, Repr

/-- Why the machine stops. -/
inductive Fault where
  /-- Raised by a Step event while `halted = 1`: "the Step event is not enabled" (R32, R184). The core
  is stuck; no instruction raises it. Safe: the machine stops where the hardware takes no step. -/
  | stepWhileHalted
deriving DecidableEq, Repr

/-- Why the machine has no meaning for what it is given. -/
inductive Refusal where
  /-- Raised by an arm of `exec` whose instruction has no meaning yet. Safe. -/
  | notModelled (mnemonic : String)
  /-- Raised by a Load event of more than 3584 bytes: no state is changed, "the launch is refused"
  (R203). No instruction raises it. Safe. -/
  | loadTooLarge
  /-- Raised by a Load event that does not come directly after Reset, which the spec gives no meaning
  (spec/93_implementation_defined.md I24: refuse). No instruction raises it. Safe. -/
  | loadNotAfterReset
deriving DecidableEq, Repr

/-- The state of the machine: the elements of R21 to R33, and four fields of the model's own. -/
structure State where
  /-- memory[0x000..0xFFF] (R21). -/
  mem : Memory
  /-- V[0..15]; VF is V[15] (R22, R23). -/
  v : Vector Byte 16
  /-- I, the index register (R24). -/
  i : Word
  /-- pc (R25). -/
  pc : Word
  /-- stack[0..15] (R26). -/
  stack : Vector Word 16
  /-- sp, the count of active entries, 0 to 16 (R27). -/
  sp : Fin 17
  /-- gfx[row][col] (R28). -/
  gfx : Screen
  /-- key[0..15] (R29). -/
  key : Vector Bool 16
  /-- DT, the delay timer (R30). -/
  dt : Byte
  /-- ST, the sound timer (R30). -/
  st : Byte
  /-- should_draw (R31). -/
  shouldDraw : Bool
  /-- halted (R32). -/
  halted : Bool
  /-- fault_cause (R32). -/
  faultCause : Option Cause
  /-- The records appended to err_out so far, oldest first (R33). -/
  errOut : List ErrorRecord
  /-- The model's own: the parameters of R7, which nothing writes (log 5). -/
  cfg : Config
  /-- The model's own: the draw `r` of the running Step event, if the host gave one (R151; log 6). -/
  draw : Option Byte
  /-- The model's own: how many bytes of the free random stream have been taken (log 6). -/
  drawCount : Nat
  /-- The model's own: the host events still to be applied, next first (R205; log 7). -/
  schedule : List Event
deriving DecidableEq, Repr

/-- The state right after Reset (R36, R200, R201): every element at the value R36 gives. The four
fields of the model's own have values the spec does not give: `cfg` is the spec's defaults (log 5),
`draw`, `drawCount` and `schedule` are empty (DESIGN CHOICE, log 6 and 7). -/
def State.reset : State where
  mem := []
  v := Vector.replicate 16 0
  i := 0
  pc := 0x200
  stack := Vector.replicate 16 0
  sp := 0
  gfx := Vector.replicate 32 (Vector.replicate 64 false)
  key := Vector.replicate 16 false
  dt := 0
  st := 0
  shouldDraw := false
  halted := false
  faultCause := none
  errOut := []
  cfg := defaultConfig
  draw := none
  drawCount := 0
  schedule := []

end Sys2Proof.Machine
end

