-- ==== Sys2Proof/Machine/Ops.lean ====
section
/-! DEFINITION. The named operations over memory, registers, the stack, the screen and the error
channel. Every meaning is written over these. -/

namespace Sys2Proof.Machine

/-! ### Memory (spec/20_memory.md) -/

/-- How many bytes there are (R6 MEM_SIZE, R45). -/
def memSize : Nat := 4096

/-- What an address reads as while nothing has written it since Reset: the font at 0x000 to 0x04F
and 0x00 elsewhere (R36, R46, R47). The only place where the unlisted value of memory is decided
(log 11). -/
def initialByte (font : Font) (a : Nat) : Byte :=
  if h : a < 80 then font[a] else 0

/-- The byte listed at an address, if there is one. -/
def Memory.lookup (a : Nat) : Memory → Option Byte
  | [] => none
  | c :: m => if c.1 = a then some c.2 else Memory.lookup a m

/-- The byte at an address of memory (R52). -/
def Memory.read (font : Font) (m : Memory) (a : Nat) : Byte :=
  (Memory.lookup a m).getD (initialByte font a)

/-- List a byte at an address, in address order. -/
def Memory.insert (a : Nat) (b : Byte) : Memory → Memory
  | [] => [(a, b)]
  | c :: m =>
    if a < c.1 then (a, b) :: c :: m
    else if c.1 = a then (a, b) :: m
    else c :: Memory.insert a b m

/-- List nothing at an address. -/
def Memory.remove (a : Nat) : Memory → Memory
  | [] => []
  | c :: m => if c.1 = a then Memory.remove a m else c :: Memory.remove a m

/-- Write a byte (R52), keeping the canonical form: an address that holds its reset contents again
is not listed. -/
def Memory.write (font : Font) (m : Memory) (a : Nat) (b : Byte) : Memory :=
  if b = initialByte font a then Memory.remove a m else Memory.insert a b m

/-- The canonical form: addresses strictly rising and inside the address space, no entry equal to
what the unlisted address reads as. -/
def Memory.wf (font : Font) : Memory → Bool
  | [] => true
  | c :: m =>
    decide (c.1 < memSize) && decide (c.2 ≠ initialByte font c.1) &&
      m.all (fun d => decide (c.1 < d.1)) && Memory.wf font m

/-- `Addr(e)` (R48): the address of the integer `e` an instruction computed, or, under
ADDR_POLICY = fault, the faulting `e`. -/
def addr (cfg : Config) (e : Nat) : Except Nat Nat :=
  if e ≤ 0xFFF then .ok e
  else
    match cfg.addrPolicy with
    | .wrap12 => .ok (e % 4096)
    | .fault => .error e

/-- `Addr` of `e, e+1, …, e+n-1`, or the first of them, in ascending order, that faults
(R147, R188). Every multi-byte access resolves all its addresses here before it writes anything. -/
def addrRange (cfg : Config) (e : Nat) : Nat → Except Nat (List Nat)
  | 0 => .ok []
  | n + 1 =>
    match addr cfg e with
    | .error bad => .error bad
    | .ok a =>
      match addrRange cfg (e + 1) n with
      | .error bad => .error bad
      | .ok as => .ok (a :: as)

/-- The byte of memory at an address 0x000 to 0xFFF. -/
def State.memByte (s : State) (a : Nat) : Byte := Memory.read s.cfg.font s.mem a

/-- Set the byte of memory at an address 0x000 to 0xFFF. -/
def State.setMemByte (s : State) (a : Nat) (b : Byte) : State :=
  { s with mem := Memory.write s.cfg.font s.mem a b }

/-- Set bytes at resolved addresses, one byte each. -/
def State.setMemBytes (s : State) : List (Nat × Byte) → State
  | [] => s
  | c :: cs => (s.setMemByte c.1 c.2).setMemBytes cs

/-- `MemRead(e+k, 1)` for k = 0 to n-1 (R11, R52), or the first faulting address. -/
def State.readBytes (s : State) (e n : Nat) : Except Nat (List Byte) :=
  match addrRange s.cfg e n with
  | .error bad => .error bad
  | .ok as => .ok (as.map s.memByte)

/-- `MemWrite(e+k, 1, bs[k])` for every byte of `bs` (R11, R52), or the first faulting address, with
nothing written (R147). -/
def State.writeBytes (s : State) (e : Nat) (bs : List Byte) : Except Nat State :=
  match addrRange s.cfg e bs.length with
  | .error bad => .error bad
  | .ok as => .ok (s.setMemBytes (as.zip bs))

/-! ### Registers (R22 to R25) -/

/-- The number of VF (R10). -/
def regF : Reg := 15

/-- `V[x]`. -/
def State.getV (s : State) (x : Reg) : Byte := s.v[x.val]

/-- `V[x] <- b`. -/
def State.setV (s : State) (x : Reg) (b : Byte) : State := { s with v := s.v.set x.val b }

/-- Set the registers numbered `k`, `k+1`, … to the bytes of a list, as far as there are
registers. -/
def setRegsFrom (k : Nat) : List Byte → Vector Byte 16 → Vector Byte 16
  | [], v => v
  | b :: bs, v => setRegsFrom (k + 1) bs (v.setIfInBounds k b)

/-- `V[j] <- bs[j]` for every byte of `bs`, from V[0] on. -/
def State.setVs (s : State) (bs : List Byte) : State := { s with v := setRegsFrom 0 bs s.v }

/-- `I <- a`. -/
def State.setI (s : State) (a : Word) : State := { s with i := a }

/-- `pc <- a` (R12). -/
def State.setPc (s : State) (a : Word) : State := { s with pc := a }

/-- `advance(k)`: pc <- pc + k, modulo 65536 (R12, R84). -/
def State.advance (s : State) (k : Word) : State := s.setPc (s.pc + k)

/-- `if c: advance(4) else: advance(2)` (R110). -/
def State.skipIf (s : State) (c : Bool) : State := if c then s.advance 4 else s.advance 2

/-- `DT <- b`. -/
def State.setDt (s : State) (b : Byte) : State := { s with dt := b }

/-- `ST <- b`. -/
def State.setSt (s : State) (b : Byte) : State := { s with st := b }

/-! ### The return stack (R26, R27) -/

/-- `stack[sp] <- a; sp <- sp + 1`, or none when all 16 entries are active (R103). -/
def State.push (s : State) (a : Word) : Option State :=
  if h : s.sp.val < 16 then
    some { s with stack := s.stack.set s.sp.val a, sp := ⟨s.sp.val + 1, by omega⟩ }
  else none

/-- `sp <- sp - 1`, with the entry `stack[sp]` that it then names, which keeps its value (R26, R101);
or none when no entry is active. -/
def State.pop (s : State) : Option (Word × State) :=
  if h : s.sp.val = 0 then none
  else some (s.stack[s.sp.val - 1], { s with sp := ⟨s.sp.val - 1, by omega⟩ })

/-! ### The screen (R28, R160) -/

/-- The cleared screen (R164). -/
def blankScreen : Screen := Vector.replicate 32 (Vector.replicate 64 false)

/-- The cell at column `x mod 64`, row `y mod 32` (R160). -/
def Screen.cell (g : Screen) (x y : Nat) : Bool :=
  (g[y % 32]'(Nat.mod_lt y (by decide)))[x % 64]'(Nat.mod_lt x (by decide))

/-- XOR the cell at column `x mod 64`, row `y mod 32` with 1. -/
def Screen.toggle (g : Screen) (x y : Nat) : Screen :=
  g.set (y % 32)
    ((g[y % 32]'(Nat.mod_lt y (by decide))).set (x % 64) (!g.cell x y) (Nat.mod_lt x (by decide)))
    (Nat.mod_lt y (by decide))

/-- Write the framebuffer and set the redraw flag, as every drawing instruction does (R31, R165). -/
def State.present (s : State) (g : Screen) : State := { s with gfx := g, shouldDraw := true }

/-! ### The error channel and the fatal fault (spec/60_exceptions.md) -/

/-- The numeric code of a cause (R181). -/
def Cause.code : Cause → Nat
  | .unknownOpcode => 1
  | .stackOverflow => 2
  | .stackUnderflow => 3
  | .addressRange => 4
  | .keyIndexRange => 5

/-- Whether a cause is fatal (R181, column kind). -/
def Cause.fatal : Cause → Bool
  | .unknownOpcode => false
  | .stackOverflow | .stackUnderflow | .addressRange | .keyIndexRange => true

/-- `Report(cause, info)`: append one record to err_out and write nothing else (R183). -/
def State.report (s : State) (cause : Cause) (w : Option Word) (info : Option Nat) : State :=
  { s with errOut := s.errOut ++ [{ cause := cause, pc := s.pc, w := w, info := info }] }

/-- `raise Fault(cause, info)`, the machine's one way of taking an exception (R184): append the
record, halted <- 1, fault_cause <- cause; everything else, pc among it, keeps its value. There is
no handler and no return from it: only Reset leaves the halted state (R180, R192). -/
def State.raiseFault (s : State) (cause : Cause) (w : Option Word) (info : Option Nat) : State :=
  { s.report cause w info with halted := true, faultCause := some cause }

/-! ### The random draw (spec/44_random.md R151) -/

/-- The draw `r` that a CXNN takes now: the one the host gave this Step, else the next byte of the
free stream. -/
def State.drawByte (s : State) : Byte := s.draw.getD (Config.randomByte s.drawCount)

/-- That draw is used up: the next CXNN gets its own (R151). -/
def State.dropDraw (s : State) : State :=
  match s.draw with
  | some _ => { s with draw := none }
  | none => { s with drawCount := s.drawCount + 1 }

end Sys2Proof.Machine
end

