-- ==== Sys2Proof/Machine/Flags.lean ====
section
/-! DEFINITION. Every flag computation of the instruction set. VF is the only flag (spec/10_state.md
R20, R23): a flag is the byte 0 or 1 written to V[15]. The collision flag of DXYN is found while the
sprite is drawn (Machine/Drawing.lean). -/

namespace Sys2Proof.Machine

/-- The byte a flag is written as. -/
def flagByte (b : Bool) : Byte := if b then 1 else 0

/-- `VF <- flag`. -/
def State.setFlag (s : State) (b : Bool) : State := s.setV regF (flagByte b)

/-- 8XY4: the unsigned sum exceeds 255 (R127). -/
def carryFlag (a b : Byte) : Bool := decide (a.toNat + b.toNat > 255)

/-- 8XY5 and 8XY7: no borrow in `a - b` (R128, R130). -/
def noBorrowFlag (a b : Byte) : Bool := decide (b.toNat ≤ a.toNat)

/-- 8XY6: the bit shifted out, bit 0 of the value before the shift (R129). -/
def shiftedOutRight (a : Byte) : Bool := a.getLsbD 0

/-- 8XYE: the bit shifted out, bit 7 of the value before the shift (R131). -/
def shiftedOutLeft (a : Byte) : Bool := a.getLsbD 7

/-- FX1E: the wide sum exceeds 0xFFF (R142). -/
def indexRangeFlag (a : Word) (b : Byte) : Bool := decide (a.toNat + b.toNat > 0xFFF)

end Sys2Proof.Machine
end

