-- ==== Sys2Proof/Machine/Alu.lean ====
section
/-! DEFINITION. The register ALU: 6XNN, 7XNN, 8XY0 to 8XY7, 8XYE (spec/42_register_alu.md). -/

namespace Sys2Proof.Machine

/-- The template without a flag: V[x] <- result; advance(2) (R120). -/
def State.aluWrite (s : State) (x : Reg) (result : Byte) : State := (s.setV x result).advance 2

/-- The template with a flag: V[x] <- result; VF <- flag; advance(2). The operands are sampled
before, and the flag is the last write, so it wins when x = F (R120; log 18). -/
def State.aluWriteFlag (s : State) (x : Reg) (result : Byte) (flag : Bool) : State :=
  ((s.setV x result).setFlag flag).advance 2

/-- `6XNN` (R121). -/
def exec6XNN (x : Reg) (nn : Byte) (s : State) : Host.Outcome State Fault Refusal :=
  .next (s.aluWrite x nn)

/-- `7XNN` (R122): no carry is recorded anywhere. -/
def exec7XNN (x : Reg) (nn : Byte) (s : State) : Host.Outcome State Fault Refusal :=
  .next (s.aluWrite x (s.getV x + nn))

/-- `8XY0` (R123). -/
def exec8XY0 (x y : Reg) (s : State) : Host.Outcome State Fault Refusal :=
  .next (s.aluWrite x (s.getV y))

/-- `8XY1` (R124): OR; VF is not reset. -/
def exec8XY1 (x y : Reg) (s : State) : Host.Outcome State Fault Refusal :=
  .next (s.aluWrite x (s.getV x ||| s.getV y))

/-- `8XY2` (R125): AND; VF is not reset. -/
def exec8XY2 (x y : Reg) (s : State) : Host.Outcome State Fault Refusal :=
  .next (s.aluWrite x (s.getV x &&& s.getV y))

/-- `8XY3` (R126): XOR; VF is not reset. -/
def exec8XY3 (x y : Reg) (s : State) : Host.Outcome State Fault Refusal :=
  .next (s.aluWrite x (s.getV x ^^^ s.getV y))

/-- `8XY4` (R127). -/
def exec8XY4 (x y : Reg) (s : State) : Host.Outcome State Fault Refusal :=
  .next (s.aluWriteFlag x (s.getV x + s.getV y) (carryFlag (s.getV x) (s.getV y)))

/-- `8XY5` (R128): V[x] - V[y]. -/
def exec8XY5 (x y : Reg) (s : State) : Host.Outcome State Fault Refusal :=
  .next (s.aluWriteFlag x (s.getV x - s.getV y) (noBorrowFlag (s.getV x) (s.getV y)))

/-- `8XY6` (R129): V[y] is never read. -/
def exec8XY6 (x _y : Reg) (s : State) : Host.Outcome State Fault Refusal :=
  .next (s.aluWriteFlag x (s.getV x >>> 1) (shiftedOutRight (s.getV x)))

/-- `8XY7` (R130): V[y] - V[x]. -/
def exec8XY7 (x y : Reg) (s : State) : Host.Outcome State Fault Refusal :=
  .next (s.aluWriteFlag x (s.getV y - s.getV x) (noBorrowFlag (s.getV y) (s.getV x)))

/-- `8XYE` (R131): V[y] is never read. -/
def exec8XYE (x _y : Reg) (s : State) : Host.Outcome State Fault Refusal :=
  .next (s.aluWriteFlag x (s.getV x <<< 1) (shiftedOutLeft (s.getV x)))

end Sys2Proof.Machine
end

