-- ==== Sys2Proof/WellFormed.lean ====
section
/-! DEFINITION. Which terms of Instr are instructions of the hardware. -/

namespace Sys2Proof

/-- The one bound that the operand types do not already carry: the row count of DXYN is a 4-bit
field, 0 to 15 (R66, R68). -/
def Instr.wellFormed : Instr → Bool
  | .opDXYN _ _ n => n < 16
  | .op00E0 _ | .op00EE _ | .op1NNN _ | .op2NNN _ | .op3XNN _ _ | .op4XNN _ _ | .op5XY0 _ _ _
  | .op6XNN _ _ | .op7XNN _ _ | .op8XY0 _ _ | .op8XY1 _ _ | .op8XY2 _ _ | .op8XY3 _ _
  | .op8XY4 _ _ | .op8XY5 _ _ | .op8XY6 _ _ | .op8XY7 _ _ | .op8XYE _ _ | .op9XY0 _ _ _
  | .opANNN _ | .opBNNN _ | .opCXNN _ _ | .opEX9E _ | .opEXA1 _ | .opFX07 _ | .opFX0A _
  | .opFX15 _ | .opFX18 _ | .opFX1E _ | .opFX29 _ | .opFX33 _ | .opFX55 _ | .opFX65 _ => true

end Sys2Proof
end

