-- ==== Sys2Proof/Decode.lean ====
section
/-! DEFINITION. Decoding (spec/30_encoding.md R65 to R80), total on any word and any bytes, and after
it the encoder, written from the same tables. -/

namespace Sys2Proof

/-! ### The fields of a word (R66, R67) -/

/-- `op = w[15:12]`. -/
def fieldOp (w : Word) : Nibble := w.extractLsb' 12 4
/-- `x = w[11:8]`. -/
def fieldX (w : Word) : Nibble := w.extractLsb' 8 4
/-- `y = w[7:4]`. -/
def fieldY (w : Word) : Nibble := w.extractLsb' 4 4
/-- `n = w[3:0]`. -/
def fieldN (w : Word) : Nibble := w.extractLsb' 0 4
/-- `nn = w[7:0]`. -/
def fieldNn (w : Word) : Byte := w.extractLsb' 0 8
/-- `nnn = w[11:0]`. -/
def fieldNnn (w : Word) : Addr12 := w.extractLsb' 0 12
/-- The register that field `x` selects (R68). -/
def regX (w : Word) : Reg := (fieldX w).toFin
/-- The register that field `y` selects (R68). -/
def regY (w : Word) : Reg := (fieldY w).toFin

/-! ### The bytes of a word (R50: big-endian) -/

/-- The byte at the lower address. -/
def highByte (w : Word) : Byte := w.extractLsb' 8 8
/-- The byte at the higher address. -/
def lowByte (w : Word) : Byte := w.extractLsb' 0 8
/-- `memory[pc]` is the high byte and `memory[pc+1]` the low byte (R50, R82). -/
def wordOfBytes (hi lo : Byte) : Word := BitVec.ofNat 16 (hi.toNat * 256 + lo.toNat)

/-! ### The decoder -/

/-- Why a word or a byte sequence is no instruction. -/
inductive DecodeError where
  /-- op = 0x0 and nn is neither 0xE0 nor 0xEE: every 0NNN machine-code call among them (R78). -/
  | unknownCategory0
  /-- op = 0x8 and n is none of 0x0 to 0x7, 0xE (R74, R78). -/
  | unknownCategory8
  /-- op = 0xE and nn is neither 0x9E nor 0xA1 (R75, R78). -/
  | unknownCategoryE
  /-- op = 0xF and nn is none of the nine listed keys (R75, R78). -/
  | unknownCategoryF
  /-- Fewer than the two bytes every instruction has (R65). -/
  | truncated
deriving DecidableEq, Repr

/-- The secondary table of category 0x0, keyed by `nn` alone (R70, R73, R75). -/
def decodeCategory0 (w : Word) : Except DecodeError Instr :=
  if fieldNn w = 0xE0 then .ok (.op00E0 (fieldX w))
  else if fieldNn w = 0xEE then .ok (.op00EE (fieldX w))
  else .error .unknownCategory0

/-- The secondary table of category 0x8, keyed by `n` (R74). -/
def decodeCategory8 (w : Word) : Except DecodeError Instr :=
  match (fieldN w).toNat with
  | 0x0 => .ok (.op8XY0 (regX w) (regY w))
  | 0x1 => .ok (.op8XY1 (regX w) (regY w))
  | 0x2 => .ok (.op8XY2 (regX w) (regY w))
  | 0x3 => .ok (.op8XY3 (regX w) (regY w))
  | 0x4 => .ok (.op8XY4 (regX w) (regY w))
  | 0x5 => .ok (.op8XY5 (regX w) (regY w))
  | 0x6 => .ok (.op8XY6 (regX w) (regY w))
  | 0x7 => .ok (.op8XY7 (regX w) (regY w))
  | 0xE => .ok (.op8XYE (regX w) (regY w))
  | _ => .error .unknownCategory8

/-- The secondary table of category 0xE, keyed by `nn` (R75). -/
def decodeCategoryE (w : Word) : Except DecodeError Instr :=
  if fieldNn w = 0x9E then .ok (.opEX9E (regX w))
  else if fieldNn w = 0xA1 then .ok (.opEXA1 (regX w))
  else .error .unknownCategoryE

/-- The secondary table of category 0xF, keyed by `nn` (R75). -/
def decodeCategoryF (w : Word) : Except DecodeError Instr :=
  if fieldNn w = 0x07 then .ok (.opFX07 (regX w))
  else if fieldNn w = 0x0A then .ok (.opFX0A (regX w))
  else if fieldNn w = 0x15 then .ok (.opFX15 (regX w))
  else if fieldNn w = 0x18 then .ok (.opFX18 (regX w))
  else if fieldNn w = 0x1E then .ok (.opFX1E (regX w))
  else if fieldNn w = 0x29 then .ok (.opFX29 (regX w))
  else if fieldNn w = 0x33 then .ok (.opFX33 (regX w))
  else if fieldNn w = 0x55 then .ok (.opFX55 (regX w))
  else if fieldNn w = 0x65 then .ok (.opFX65 (regX w))
  else .error .unknownCategoryF

/-- Two-level dispatch of an instruction word (R69 to R72). Category 0xF is the last of the sixteen
values of `op`. -/
def decodeWord (w : Word) : Except DecodeError Instr :=
  match (fieldOp w).toNat with
  | 0x0 => decodeCategory0 w
  | 0x1 => .ok (.op1NNN (fieldNnn w))
  | 0x2 => .ok (.op2NNN (fieldNnn w))
  | 0x3 => .ok (.op3XNN (regX w) (fieldNn w))
  | 0x4 => .ok (.op4XNN (regX w) (fieldNn w))
  | 0x5 => .ok (.op5XY0 (regX w) (regY w) (fieldN w))
  | 0x6 => .ok (.op6XNN (regX w) (fieldNn w))
  | 0x7 => .ok (.op7XNN (regX w) (fieldNn w))
  | 0x8 => decodeCategory8 w
  | 0x9 => .ok (.op9XY0 (regX w) (regY w) (fieldN w))
  | 0xA => .ok (.opANNN (fieldNnn w))
  | 0xB => .ok (.opBNNN (fieldNnn w))
  | 0xC => .ok (.opCXNN (regX w) (fieldNn w))
  | 0xD => .ok (.opDXYN (regX w) (regY w) (fieldN w).toNat)
  | 0xE => decodeCategoryE w
  | _ => decodeCategoryF w

/-- Decode the first instruction of a byte sequence and give the bytes after it: every instruction
is 2 bytes, the high byte first (R50, R65, R80). -/
def decode : List Byte → Except DecodeError (Instr × List Byte)
  | hi :: lo :: rest =>
    match decodeWord (wordOfBytes hi lo) with
    | .ok i => .ok (i, rest)
    | .error e => .error e
  | [_] => .error .truncated
  | [] => .error .truncated

/-! ### The encoder -/

/-- A word of the layout `op x y n` (R66). -/
def wordXYN (op x y n : Nibble) : Word :=
  BitVec.ofNat 16 (op.toNat * 4096 + x.toNat * 256 + y.toNat * 16 + n.toNat)

/-- A word of the layout `op x nn` (R66). -/
def wordXNN (op x : Nibble) (nn : Byte) : Word :=
  BitVec.ofNat 16 (op.toNat * 4096 + x.toNat * 256 + nn.toNat)

/-- A word of the layout `op nnn` (R66). -/
def wordNNN (op : Nibble) (nnn : Addr12) : Word :=
  BitVec.ofNat 16 (op.toNat * 4096 + nnn.toNat)

/-- The 4-bit field that selects a register (R68). -/
def regField (r : Reg) : Nibble := BitVec.ofFin r

/-- The instruction word of an instruction (R72; spec/opcode_table.json). -/
def encode : Instr → Word
  | .op00E0 x => wordXNN 0x0 x 0xE0
  | .op00EE x => wordXNN 0x0 x 0xEE
  | .op1NNN nnn => wordNNN 0x1 nnn
  | .op2NNN nnn => wordNNN 0x2 nnn
  | .op3XNN x nn => wordXNN 0x3 (regField x) nn
  | .op4XNN x nn => wordXNN 0x4 (regField x) nn
  | .op5XY0 x y n => wordXYN 0x5 (regField x) (regField y) n
  | .op6XNN x nn => wordXNN 0x6 (regField x) nn
  | .op7XNN x nn => wordXNN 0x7 (regField x) nn
  | .op8XY0 x y => wordXYN 0x8 (regField x) (regField y) 0x0
  | .op8XY1 x y => wordXYN 0x8 (regField x) (regField y) 0x1
  | .op8XY2 x y => wordXYN 0x8 (regField x) (regField y) 0x2
  | .op8XY3 x y => wordXYN 0x8 (regField x) (regField y) 0x3
  | .op8XY4 x y => wordXYN 0x8 (regField x) (regField y) 0x4
  | .op8XY5 x y => wordXYN 0x8 (regField x) (regField y) 0x5
  | .op8XY6 x y => wordXYN 0x8 (regField x) (regField y) 0x6
  | .op8XY7 x y => wordXYN 0x8 (regField x) (regField y) 0x7
  | .op8XYE x y => wordXYN 0x8 (regField x) (regField y) 0xE
  | .op9XY0 x y n => wordXYN 0x9 (regField x) (regField y) n
  | .opANNN nnn => wordNNN 0xA nnn
  | .opBNNN nnn => wordNNN 0xB nnn
  | .opCXNN x nn => wordXNN 0xC (regField x) nn
  | .opDXYN x y n => wordXYN 0xD (regField x) (regField y) (BitVec.ofNat 4 n)
  | .opEX9E x => wordXNN 0xE (regField x) 0x9E
  | .opEXA1 x => wordXNN 0xE (regField x) 0xA1
  | .opFX07 x => wordXNN 0xF (regField x) 0x07
  | .opFX0A x => wordXNN 0xF (regField x) 0x0A
  | .opFX15 x => wordXNN 0xF (regField x) 0x15
  | .opFX18 x => wordXNN 0xF (regField x) 0x18
  | .opFX1E x => wordXNN 0xF (regField x) 0x1E
  | .opFX29 x => wordXNN 0xF (regField x) 0x29
  | .opFX33 x => wordXNN 0xF (regField x) 0x33
  | .opFX55 x => wordXNN 0xF (regField x) 0x55
  | .opFX65 x => wordXNN 0xF (regField x) 0x65

/-- The two bytes of an instruction, the one at the lower address first (R50). -/
def encodeBytes (i : Instr) : List Byte := [highByte (encode i), lowByte (encode i)]

/-! ### Words numbered as spec/opcode_table.json numbers them -/

/-- The word of `nbits` bits whose number is `w`; every bit above is 0. -/
def tableWord (nbits w : Nat) : Word := BitVec.ofNat 16 (w % 2 ^ nbits)

/-- What the decoder reads from the bytes of the table's word, laid out as the hardware stores them
(one word, big-endian, R50). -/
def decodeTableWord (nbits w : Nat) : Option Instr :=
  match decode [highByte (tableWord nbits w), lowByte (tableWord nbits w)] with
  | .ok (i, _) => some i
  | .error _ => none

end Sys2Proof
end

