-- ==== Sys2Proof/Machine/Operands.lean ====
section
/-! DEFINITION. Every operand form of the instruction set (spec/30_encoding.md R68). Register operands
V[x], V[y] are `State.getV`; `nn` and `n` are used as they stand. -/

namespace Sys2Proof.Machine

/-- `zext_16(nnn)`: the address immediate where it is written to pc or I (R68). -/
def zext16 (nnn : Addr12) : Word := nnn.setWidth 16

/-- The effective address of the memory instructions at offset 0: I at full precision (R49, R140).
Offset `k` is `s.indexAddr + k`. -/
def State.indexAddr (s : State) : Nat := s.i.toNat

/-- The bytes FX55 stores: V[0] to V[x], in order (R145). -/
def State.regBlock (s : State) (x : Reg) : List Byte := s.v.toList.take (x.val + 1)

/-- I after FX55 and FX65: I + x + 1, modulo 65536 (R145, R146). -/
def State.indexPast (s : State) (x : Reg) : Word := BitVec.ofNat 16 (s.i.toNat + x.val + 1)

/-- The decimal digits of a byte: hundreds, tens, ones (R144). -/
def decimalDigits (b : Byte) : List Byte :=
  [BitVec.ofNat 8 (b.toNat / 100), BitVec.ofNat 8 (b.toNat / 10 % 10), BitVec.ofNat 8 (b.toNat % 10)]

/-- The address of the glyph of a byte: five rows a glyph, from address 0, with no masking (R143). -/
def glyphAddr (b : Byte) : Word := BitVec.ofNat 16 (b.toNat * 5)

/-- `KeyIdx(v)` (R117): the index of the key a byte names, or none where KEY_INDEX_RANGE is raised. -/
def keyIndex (cfg : Config) (b : Byte) : Option (Fin 16) :=
  if h : b.toNat ≤ 0xF then some ⟨b.toNat, by omega⟩
  else
    match cfg.keyIndexPolicy with
    | .fault => none
    | .mask4 => some (b.setWidth 4).toFin

/-- Whether key `k` is pressed (R29). -/
def State.keyDown (s : State) (k : Fin 16) : Bool := s.key[k.val]

/-- The index, counted from `k`, of the first pressed key of a list. -/
def firstPressedFrom (k : Nat) : List Bool → Option Nat
  | [] => none
  | down :: keys => if down then some k else firstPressedFrom (k + 1) keys

/-- The lowest index of a pressed key (R173). -/
def State.firstPressed (s : State) : Option Nat := firstPressedFrom 0 s.key.toList

end Sys2Proof.Machine
end

