-- ==== Sys2Proof/Machine/ControlFlow.lean ====
section
/-! DEFINITION. Control flow: 00EE, 1NNN, 2NNN, BNNN (spec/40_control_flow.md). -/

namespace Sys2Proof.Machine

/-- `00EE` (R101): return to the word after the call whose address was pushed. -/
def exec00EE (x : Nibble) (s : State) : Host.Outcome State Fault Refusal :=
  match s.pop with
  | none => .next (s.raiseFault .stackUnderflow (some (encode (.op00EE x))) none)
  | some (ret, t) => .next (t.setPc (ret + 2))

/-- `1NNN` (R102). -/
def exec1NNN (nnn : Addr12) (s : State) : Host.Outcome State Fault Refusal :=
  .next (s.setPc (zext16 nnn))

/-- `2NNN` (R103): push the address of the 2NNN itself. -/
def exec2NNN (nnn : Addr12) (s : State) : Host.Outcome State Fault Refusal :=
  match s.push s.pc with
  | none => .next (s.raiseFault .stackOverflow (some (encode (.op2NNN nnn))) none)
  | some t => .next (t.setPc (zext16 nnn))

/-- `BNNN` (R104): the offset register is always V0. -/
def execBNNN (nnn : Addr12) (s : State) : Host.Outcome State Fault Refusal :=
  .next (s.setPc (zext16 nnn + (s.getV 0).setWidth 16))

end Sys2Proof.Machine
end

