-- ==== Sys2Proof/Machine/MemoryIndex.lean ====
section
/-! DEFINITION. Memory and index: ANNN, FX1E, FX29, FX33, FX55, FX65 (spec/43_memory_index.md). -/

namespace Sys2Proof.Machine

/-- ADDRESS_RANGE raised by an instruction with the word `w` at the address `bad` (R188). -/
def State.addressFault (s : State) (w : Word) (bad : Nat) : State :=
  s.raiseFault .addressRange (some w) (some bad)

/-- `ANNN` (R141). -/
def execANNN (nnn : Addr12) (s : State) : Host.Outcome State Fault Refusal :=
  .next ((s.setI (zext16 nnn)).advance 2)

/-- `FX1E` (R142): the flag tests the wide sum and is the last write. -/
def execFX1E (x : Reg) (s : State) : Host.Outcome State Fault Refusal :=
  .next (((s.setI (s.i + (s.getV x).setWidth 16)).setFlag (indexRangeFlag s.i (s.getV x))).advance 2)

/-- `FX29` (R143). -/
def execFX29 (x : Reg) (s : State) : Host.Outcome State Fault Refusal :=
  .next ((s.setI (glyphAddr (s.getV x))).advance 2)

/-- `FX33` (R144). -/
def execFX33 (x : Reg) (s : State) : Host.Outcome State Fault Refusal :=
  match s.writeBytes s.indexAddr (decimalDigits (s.getV x)) with
  | .error bad => .next (s.addressFault (encode (.opFX33 x)) bad)
  | .ok t => .next (t.advance 2)

/-- `FX55` (R145). -/
def execFX55 (x : Reg) (s : State) : Host.Outcome State Fault Refusal :=
  match s.writeBytes s.indexAddr (s.regBlock x) with
  | .error bad => .next (s.addressFault (encode (.opFX55 x)) bad)
  | .ok t => .next ((t.setI (s.indexPast x)).advance 2)

/-- `FX65` (R146). -/
def execFX65 (x : Reg) (s : State) : Host.Outcome State Fault Refusal :=
  match s.readBytes s.indexAddr (x.val + 1) with
  | .error bad => .next (s.addressFault (encode (.opFX65 x)) bad)
  | .ok bs => .next (((s.setVs bs).setI (s.indexPast x)).advance 2)

end Sys2Proof.Machine
end

