-- ==== Sys2Proof/Machine/Drawing.lean ====
section
/-! DEFINITION. Drawing: DXYN, 00E0 (spec/45_drawing.md). -/

namespace Sys2Proof.Machine

/-- Whether the sprite byte `b` has a 1 for its pixel in column `col`, 0 to 7, column 0 leftmost
(R162 and its parameter SPRITE_MSB_LEFT; log 4). -/
def spriteBit (cfg : Config) (b : Byte) (col : Nat) : Bool :=
  if cfg.spriteMsbLeft then b.getLsbD (7 - col) else b.getLsbD col

/-- One pixel of a sprite, on a screen and the collision flag so far: a 1 bit records a collision
if its cell is 1, and then toggles the cell; a 0 bit does nothing. The coordinates wrap (R161). -/
def drawPixel (on : Bool) (px py : Nat) (d : Screen × Bool) : Screen × Bool :=
  if on then (d.1.toggle px py, d.2 || d.1.cell px py) else d

/-- The pixels of one sprite row from column `col` on, `k` of them, left to right. -/
def drawColumns (cfg : Config) (b : Byte) (x0 py : Nat) (col : Nat) :
    Nat → Screen × Bool → Screen × Bool
  | 0, d => d
  | k + 1, d =>
    drawColumns cfg b x0 py (col + 1) k (drawPixel (spriteBit cfg b col) (x0 + col) py d)

/-- The rows of a sprite, one byte a row, the first of them at screen row `py` (R161). -/
def drawRows (cfg : Config) (x0 : Nat) (py : Nat) : List Byte → Screen × Bool → Screen × Bool
  | [], d => d
  | b :: bs, d => drawRows cfg x0 (py + 1) bs (drawColumns cfg b x0 py 0 8 d)

/-- The screen and the collision flag after a sprite is drawn with its corner at column
`vx mod 64`, row `vy mod 32` (R161). -/
def drawSprite (cfg : Config) (vx vy : Byte) (bs : List Byte) (g : Screen) : Screen × Bool :=
  drawRows cfg (vx.toNat % 64) (vy.toNat % 32) bs (g, false)

/-- `DXYN` (R161): the coordinates and I are sampled before VF is written (log 18); VF is the
collision flag; the redraw flag is set whether or not a pixel changed (R31). -/
def execDXYN (x y : Reg) (n : Nat) (s : State) : Host.Outcome State Fault Refusal :=
  match s.readBytes s.indexAddr n with
  | .error bad => .next (s.addressFault (encode (.opDXYN x y n)) bad)
  | .ok bs =>
    let d := drawSprite s.cfg (s.getV x) (s.getV y) bs s.gfx
    .next (((s.setFlag d.2).present d.1).advance 2)

/-- `00E0` (R164). -/
def exec00E0 (_x : Nibble) (s : State) : Host.Outcome State Fault Refusal :=
  .next ((s.present blankScreen).advance 2)

end Sys2Proof.Machine
end

