-- ==== Sys2Proof/Machine/Random.lean ====
section
/-! DEFINITION. Randomness: CXNN (spec/44_random.md). -/

namespace Sys2Proof.Machine

/-- `CXNN` (R150): V[x] <- r & nn, with the draw r of this Step (R151; a free value, log 6). -/
def execCXNN (x : Reg) (nn : Byte) (s : State) : Host.Outcome State Fault Refusal :=
  .next ((s.dropDraw.setV x (s.drawByte &&& nn)).advance 2)

end Sys2Proof.Machine
end

