-- ==== Sys2Proof/Machine/Skip.lean ====
section
/-! DEFINITION. Conditional skips: 3XNN, 4XNN, 5XY0, 9XY0, EX9E, EXA1
(spec/41_conditional_skip.md R110). The conditions are the spec's, marked there as general knowledge
(log 17). -/

namespace Sys2Proof.Machine

/-- `3XNN` (R111). -/
def exec3XNN (x : Reg) (nn : Byte) (s : State) : Host.Outcome State Fault Refusal :=
  .next (s.skipIf (decide (s.getV x = nn)))

/-- `4XNN` (R112). -/
def exec4XNN (x : Reg) (nn : Byte) (s : State) : Host.Outcome State Fault Refusal :=
  .next (s.skipIf (decide (s.getV x ≠ nn)))

/-- `5XY0` (R113); the low nibble is not checked (R71). -/
def exec5XY0 (x y : Reg) (_n : Nibble) (s : State) : Host.Outcome State Fault Refusal :=
  .next (s.skipIf (decide (s.getV x = s.getV y)))

/-- `9XY0` (R114); the low nibble is not checked (R71). -/
def exec9XY0 (x y : Reg) (_n : Nibble) (s : State) : Host.Outcome State Fault Refusal :=
  .next (s.skipIf (decide (s.getV x ≠ s.getV y)))

/-- The key test both key skips make: whether the key that V[x] names is pressed, or the state in
which KEY_INDEX_RANGE has been raised, with V[x] as its info (R117, R189). -/
def State.testKey (s : State) (x : Reg) (w : Word) : Except State Bool :=
  match keyIndex s.cfg (s.getV x) with
  | none => .error (s.raiseFault .keyIndexRange (some w) (some (s.getV x).toNat))
  | some k => .ok (s.keyDown k)

/-- `EX9E` (R115). -/
def execEX9E (x : Reg) (s : State) : Host.Outcome State Fault Refusal :=
  match s.testKey x (encode (.opEX9E x)) with
  | .error t => .next t
  | .ok down => .next (s.skipIf down)

/-- `EXA1` (R116). -/
def execEXA1 (x : Reg) (s : State) : Host.Outcome State Fault Refusal :=
  match s.testKey x (encode (.opEXA1 x)) with
  | .error t => .next t
  | .ok down => .next (s.skipIf (!down))

end Sys2Proof.Machine
end

