-- ==== Sys2Proof/Machine/Timers.lean ====
section
/-! DEFINITION. Timers and key wait: FX07, FX15, FX18, FX0A (spec/46_timers_keys.md). The directions of
the three copies are the spec's, marked there as general knowledge (log 17). -/

namespace Sys2Proof.Machine

/-- `FX07` (R170). -/
def execFX07 (x : Reg) (s : State) : Host.Outcome State Fault Refusal :=
  .next ((s.setV x s.dt).advance 2)

/-- `FX15` (R171). -/
def execFX15 (x : Reg) (s : State) : Host.Outcome State Fault Refusal :=
  .next ((s.setDt (s.getV x)).advance 2)

/-- `FX18` (R172). -/
def execFX18 (x : Reg) (s : State) : Host.Outcome State Fault Refusal :=
  .next ((s.setSt (s.getV x)).advance 2)

/-- `FX0A` (R173): with no key pressed nothing changes, pc included, so that the next Step runs the
same FX0A again (R85). -/
def execFX0A (x : Reg) (s : State) : Host.Outcome State Fault Refusal :=
  match s.firstPressed with
  | some k => .next ((s.setV x (BitVec.ofNat 8 k)).advance 2)
  | none => .next s

end Sys2Proof.Machine
end

