-- ==== Sys2Proof/Machine/Fetch.lean ====
section
/-! DEFINITION. Instruction fetch and the unknown word (spec/30_encoding.md R82, spec/60_exceptions.md
R185, R188). -/

namespace Sys2Proof.Machine

/-- The word at pc: `MemRead(pc, 1) * 256 + MemRead(pc + 1, 1)`, or the first faulting address
(R50, R82, R188). -/
def State.fetchWord (s : State) : Except Nat Word :=
  match addr s.cfg s.pc.toNat with
  | .error bad => .error bad
  | .ok a =>
    match addr s.cfg (s.pc.toNat + 1) with
    | .error bad => .error bad
    | .ok b => .ok (wordOfBytes (s.memByte a) (s.memByte b))

/-- The fetch itself raises ADDRESS_RANGE: there is no word (R182, R188). -/
def State.fetchFault (s : State) (bad : Nat) : State :=
  s.raiseFault .addressRange none (some bad)

/-- An UNKNOWN word is reported and passed over: a record, and pc + 2 (R185). -/
def State.skipUnknown (s : State) (w : Word) : State :=
  (s.report .unknownOpcode (some w) none).advance 2

/-- Store a word where the next fetch reads it, big-endian (R48, R50). -/
def State.placeWord (s : State) (w : Word) : State :=
  (s.setMemByte (s.pc.toNat % 4096) (highByte w)).setMemByte ((s.pc.toNat + 1) % 4096) (lowByte w)

end Sys2Proof.Machine
end

