-- ==== Sys2Proof/Machine/HostEvents.lean ====
section
/-! DEFINITION. The host's events other than Step, and the outputs (spec/10_state.md R38 to R40,
spec/46_timers_keys.md R174, spec/70_reset_and_hazards.md). -/

namespace Sys2Proof.Machine

/-- `Tick` (R174): decrement each nonzero timer by 1. -/
def State.tick (s : State) : State :=
  { s with dt := if s.dt = 0 then 0 else s.dt - 1, st := if s.st = 0 then 0 else s.st - 1 }

/-- `KeySet(k, b)` (R39). -/
def State.keySet (s : State) (k : Fin 16) (pressed : Bool) : State :=
  { s with key := s.key.set k.val pressed }

/-- `DrawAck` (R39, R165). -/
def State.drawAck (s : State) : State := { s with shouldDraw := false }

/-- `Reset` (R200, R207): the elements of R36 take their reset values. Records already on err_out stay
(R33); so do the configuration, the random draws and the host's schedule, which are no elements of
R36 (log 10). -/
def State.resetEvent (s : State) : State :=
  { State.reset with
    errOut := s.errOut, cfg := s.cfg, draw := s.draw, drawCount := s.drawCount,
    schedule := s.schedule }

/-- The host's schedule is now `es` (log 7). -/
def State.withSchedule (s : State) (es : List Event) : State := { s with schedule := es }

/-- The host gives the Step about to run the draw `r` (R39, R151; log 6). -/
def State.giveDraw (s : State) (r : Byte) : State := { s with draw := some r }

/-- A Step event's draw is for that Step alone: one that the instruction did not read is dropped
(R39, R151). -/
def State.endDraw (s : State) : State := { s with draw := none }

/-- Where programs are loaded (R6 PROGRAM_BASE). -/
def programBase : Nat := 0x200

/-- The longest ROM image, in bytes (R6 MAX_ROM). -/
def maxRom : Nat := 3584

/-- What Load answers to its caller (R202, R203). -/
inductive LoadResult where
  | ok        -- LOAD_OK
  | tooLarge  -- LOAD_TOO_LARGE
deriving DecidableEq, Repr

/-- Set the bytes at `a`, `a+1`, … to the bytes of a list. -/
def State.placeBytes (s : State) (a : Nat) : List Byte → State
  | [] => s
  | b :: bs => (s.setMemByte a b).placeBytes (a + 1) bs

/-- `Load(rom)` (R202): copy the image to memory from 0x200, or, when it is too large, change
nothing (R203). The result goes to the caller, not to err_out. -/
def State.load (s : State) (rom : List Byte) : LoadResult × State :=
  if rom.length > maxRom then (.tooLarge, s) else (.ok, s.placeBytes programBase rom)

/-- The state is that directly after a Reset: another Reset would change nothing. -/
def State.isPostReset (s : State) : Bool := decide (s = s.resetEvent)

/-- The Load event. The host applies it directly after Reset, once (R202; at any other time the spec
gives it no meaning, spec/93_implementation_defined.md I24); after a failed load the launch is
refused (R203). Log 9. -/
def State.loadEvent (s : State) (rom : List Byte) : Host.Outcome State Fault Refusal :=
  if s.isPostReset then
    match s.load rom with
    | (.ok, t) => .next t
    | (.tooLarge, _) => .refused .loadTooLarge
  else .refused .loadNotAfterReset

/-- What the host observes (R40). -/
structure Outputs where
  gfx : Screen
  shouldDraw : Bool
  errOut : List ErrorRecord
  halted : Bool
  faultCause : Option Cause
deriving DecidableEq, Repr

/-- The outputs of a state (R40): reading them has no effect. -/
def State.outputs (s : State) : Outputs where
  gfx := s.gfx
  shouldDraw := s.shouldDraw
  errOut := s.errOut
  halted := s.halted
  faultCause := s.faultCause

end Sys2Proof.Machine
end

