-- ==== Sys2Proof/Machine/Step.lean ====
section
/-! DEFINITION. The step of the machine (spec/30_encoding.md R82; spec/10_state.md R37 to R39). -/

namespace Sys2Proof.Machine

/-- One instruction (R82): not enabled while halted; otherwise fetch, decode, dispatch, in the order
of R190. -/
def stepCore (s : State) : Host.Outcome State Fault Refusal :=
  if s.halted then .fault .stepWhileHalted
  else
    match s.fetchWord with
    | .error bad => .next (s.fetchFault bad)
    | .ok w =>
      match decodeWord w with
      | .error _ => .next (s.skipUnknown w)
      | .ok i => exec i s

/-- The host's `Step(r)` event: one instruction with the draw `r` (R39, R82). -/
def stepWith (r : Byte) (s : State) : Host.Outcome State Fault Refusal :=
  match stepCore (s.giveDraw r) with
  | .next t => .next t.endDraw
  | .fault f => .fault f
  | .refused x => .refused x

/-- One host event, an atomic transition of the whole state (R37 to R39). -/
def applyEvent (e : Event) (s : State) : Host.Outcome State Fault Refusal :=
  match e with
  | .reset => .next s.resetEvent
  | .load rom => s.loadEvent rom
  | .step r => stepWith r s
  | .tick => .next s.tick
  | .keySet k pressed => .next (s.keySet k pressed)
  | .drawAck => .next s.drawAck

/-- One step of the machine: the next event of the host's schedule, or, when none is listed, one
Step event whose draw is the next byte of the free stream (log 6, 7). -/
def step (s : State) : Host.Outcome State Fault Refusal :=
  match s.schedule with
  | [] => stepCore s
  | e :: es => applyEvent e (s.withSchedule es)

/-- `s` with the instruction of the table's word placed where the next step fetches it, and nothing
else scheduled before that step. It stands for the load of a program from outside (log 15). -/
def State.withFetchWord (s : State) (nbits w : Nat) : State :=
  (s.placeWord (tableWord nbits w)).withSchedule []

end Sys2Proof.Machine
end

