-- ==== Sys2Proof/Safety.lean ====
section
/-! DEFINITION. The terms claims are stated in: the elements of the state and what an instruction may
write (spec/10_state.md R35, spec/30_encoding.md R83), a fault taken (spec/60_exceptions.md R184),
runs, and the invariant of the machine. -/

namespace Sys2Proof.Machine

/-! ### Frames -/

/-- The parts of the state a frame speaks of: every byte of memory, every register, every stack
entry, and the other elements whole; then the model's own fields. -/
inductive Elem where
  | memByte (a : Nat)
  | reg (x : Reg)
  | index
  | pc
  | stackEntry (k : Fin 16)
  | sp
  | gfx
  | key
  | dt
  | st
  | shouldDraw
  | halted
  | faultCause
  | errOut
  | cfg
  | draw
  | drawCount
  | schedule
deriving DecidableEq, Repr

/-- The element has the same value in both states. -/
def agree (e : Elem) (s t : State) : Prop :=
  match e with
  | .memByte a => t.memByte a = s.memByte a
  | .reg x => t.getV x = s.getV x
  | .index => t.i = s.i
  | .pc => t.pc = s.pc
  | .stackEntry k => t.stack[k.val] = s.stack[k.val]
  | .sp => t.sp = s.sp
  | .gfx => t.gfx = s.gfx
  | .key => t.key = s.key
  | .dt => t.dt = s.dt
  | .st => t.st = s.st
  | .shouldDraw => t.shouldDraw = s.shouldDraw
  | .halted => t.halted = s.halted
  | .faultCause => t.faultCause = s.faultCause
  | .errOut => t.errOut = s.errOut
  | .cfg => t.cfg = s.cfg
  | .draw => t.draw = s.draw
  | .drawCount => t.drawCount = s.drawCount
  | .schedule => t.schedule = s.schedule

/-- The addresses of an access to `n` bytes from I on, as the meanings compute them: none where
ADDRESS_RANGE is raised. -/
def accessed (s : State) (n : Nat) : List Nat :=
  match addrRange s.cfg s.indexAddr n with
  | .ok as => as
  | .error _ => []

/-- What an instruction that raises no fault may write: the last column of R35, and pc. CXNN also
uses up its draw (the model's own fields, log 6). With no key pressed FX0A writes nothing (R173). -/
def writesElem (i : Instr) (s : State) (e : Elem) : Prop :=
  match i with
  | .op00E0 _ => e = .pc ∨ e = .gfx ∨ e = .shouldDraw
  | .op00EE _ => e = .pc ∨ e = .sp
  | .op1NNN _ | .opBNNN _ => e = .pc
  | .op2NNN _ => e = .pc ∨ e = .sp ∨ ∃ k : Fin 16, k.val = s.sp.val ∧ e = .stackEntry k
  | .op3XNN _ _ | .op4XNN _ _ | .op5XY0 _ _ _ | .op9XY0 _ _ _ | .opEX9E _ | .opEXA1 _ => e = .pc
  | .op6XNN x _ | .op7XNN x _ => e = .pc ∨ e = .reg x
  | .op8XY0 x _ | .op8XY1 x _ | .op8XY2 x _ | .op8XY3 x _ => e = .pc ∨ e = .reg x
  | .op8XY4 x _ | .op8XY5 x _ | .op8XY6 x _ | .op8XY7 x _ | .op8XYE x _ =>
    e = .pc ∨ e = .reg x ∨ e = .reg regF
  | .opANNN _ | .opFX29 _ => e = .pc ∨ e = .index
  | .opCXNN x _ => e = .pc ∨ e = .reg x ∨ e = .draw ∨ e = .drawCount
  | .opDXYN _ _ _ => e = .pc ∨ e = .gfx ∨ e = .shouldDraw ∨ e = .reg regF
  | .opFX07 x => e = .pc ∨ e = .reg x
  | .opFX0A x => (∃ k : Fin 16, s.key[k.val] = true) ∧ (e = .pc ∨ e = .reg x)
  | .opFX15 _ => e = .pc ∨ e = .dt
  | .opFX18 _ => e = .pc ∨ e = .st
  | .opFX1E _ => e = .pc ∨ e = .index ∨ e = .reg regF
  | .opFX33 _ => e = .pc ∨ ∃ a ∈ accessed s 3, e = .memByte a
  | .opFX55 x => e = .pc ∨ e = .index ∨ ∃ a ∈ accessed s (x.val + 1), e = .memByte a
  | .opFX65 x => e = .pc ∨ e = .index ∨ ∃ j : Reg, j.val ≤ x.val ∧ e = .reg j

/-- From `s` to `t` nothing changed but what the instruction writes (R83). -/
def OnlyWrites (i : Instr) (s t : State) : Prop := ∀ e, ¬ writesElem i s e → agree e s t

/-- The instruction with the number `n` as its word: the decoder reads it so (R67, R69). -/
def EncodedAs (i : Instr) (n : Nat) : Prop := decodeWord (BitVec.ofNat 16 n) = .ok i

/-! ### Faults -/

/-- What a fatal fault writes (R184). -/
def faultElem (e : Elem) : Prop := e = .halted ∨ e = .faultCause ∨ e = .errOut

/-- `t` is `s` after `raise Fault(cause, info)` in the instruction at pc with the word `w`: the record
is appended, the fault status set, and nothing else changed (R184, R191). -/
def FaultTaken (s t : State) (cause : Cause) (w : Option Word) (info : Option Nat) : Prop :=
  t.errOut = s.errOut ++ [⟨cause, s.pc, w, info⟩] ∧ t.halted = true ∧ t.faultCause = some cause ∧
    ∀ e, ¬ faultElem e → agree e s t

/-- Every address `I+0` to `I+n-1` has an address of memory: ADDR_POLICY = wrap12, or none of them
exceeds 0xFFF (R48, R188). -/
def InRange (s : State) (n : Nat) : Prop :=
  s.cfg.addrPolicy = .wrap12 ∨ s.i.toNat + n ≤ 0x1000 ∨ n = 0

/-- The lowest of the addresses from I on that exceeds 0xFFF (R188). -/
def firstBad (s : State) : Nat := max s.i.toNat 0x1000

/-! ### Runs -/

/-- No fault has been recorded: the premise a claim about a run takes (R212). -/
def State.running (s : State) : Prop := s.halted = false

/-- The host has no event listed, so that the next step is a Step (R39; log 7), and it is enabled. -/
def State.atStep (s : State) : Prop := s.schedule = [] ∧ s.running

/-- The fixed point of R212: the next Step leaves the whole state unchanged and reports nothing. It is
a property of the Step alone: what the host has scheduled before or after that Step plays no part, and
the host need not stop. -/
def State.fixedPoint (s : State) : Prop := stepCore s = .next s

/-- `t` is reached from `s` by steps of the machine, and in every state from `s` to `t`, both
included, more than `d` stack entries are active. -/
inductive RunAbove (d : Nat) : State → State → Prop where
  | refl {s : State} : d < s.sp.val → RunAbove d s s
  | step {s t u : State} : RunAbove d s t → step t = .next u → d < u.sp.val → RunAbove d s u

/-! ### The invariant -/

/-- What every step keeps: memory has its canonical form; the two fault fields agree, the cause is a
fatal one, and it is the cause of the last record, whose address pc still holds (R32, R181, R184). -/
structure State.Inv (s : State) : Prop where
  memWf : Memory.wf s.cfg.font s.mem = true
  haltedIff : s.halted = true ↔ s.faultCause ≠ none
  causeFatal : ∀ c, s.faultCause = some c → c.fatal = true
  lastRecord : ∀ c, s.faultCause = some c →
    ∃ r, s.errOut.getLast? = some r ∧ r.cause = c ∧ r.pc = s.pc

end Sys2Proof.Machine
end

