-- ==== Sys2Proof/Certificates/Slice0/Obligations.lean ====
section
/-! DEFINITION. The statements for the provers. Each formalises rules of spec/ named in its docstring;
`OnlyWrites` is the frame (R83, R35), `EncodedAs` ties an instruction to its words (R72). -/

open Sys2Proof Sys2Proof.Machine

/-! ### Encoding -/

/-- R66, R72: no operand bit is lost: decoding the word of a well-formed instruction gives it
back. The agreement is the model's inference from the spec's tables, and the bits kept are log 12.
-/
def Obligations.DecodeOfEncodeGivesInstruction : Prop :=
  ∀ i : Instr, i.wellFormed = true → decodeWord (encode i) = .ok i

/-- R66, R72: a word that decodes is the word of exactly the instruction it decodes to, and that
instruction is well formed. The agreement is the model's inference from the spec's tables, and the
bits kept are log 12. -/
def Obligations.EncodeOfDecodeGivesWord : Prop :=
  ∀ (w : Word) (i : Instr), decodeWord w = .ok i → encode i = w ∧ i.wellFormed = true

/-- R78, R74, R75: the words with no handler. R78 marks itself as derived. -/
def Obligations.UnknownWordsAreTheFourClasses : Prop :=
  ∀ w : Word,
    (∃ e, decodeWord w = .error e) ↔
      (w.toNat / 4096 = 0x0 ∧ w.toNat % 256 ∉ [0xE0, 0xEE]) ∨
      (w.toNat / 4096 = 0x8 ∧ w.toNat % 16 ∈ [0x8, 0x9, 0xA, 0xB, 0xC, 0xD, 0xF]) ∨
      (w.toNat / 4096 = 0xE ∧ w.toNat % 256 ∉ [0x9E, 0xA1]) ∨
      (w.toNat / 4096 = 0xF ∧
        w.toNat % 256 ∉ [0x07, 0x0A, 0x15, 0x18, 0x1E, 0x29, 0x33, 0x55, 0x65])

/-- R72, R73, R71: words written out from the opcode map, one a family. -/
def Obligations.SampleWordsDecode : Prop :=
  decodeWord 0x0FEE = .ok (.op00EE 0xF) ∧ decodeWord 0x2300 = .ok (.op2NNN 0x300) ∧
  decodeWord 0x5121 = .ok (.op5XY0 1 2 1) ∧ decodeWord 0xE59E = .ok (.opEX9E 5) ∧
  decodeWord 0x8124 = .ok (.op8XY4 1 2) ∧ decodeWord 0xF155 = .ok (.opFX55 1) ∧
  decodeWord 0xC30F = .ok (.opCXNN 3 0x0F) ∧ decodeWord 0xDF15 = .ok (.opDXYN 15 1 5) ∧
  decodeWord 0xF30A = .ok (.opFX0A 3)

/-- R70, R71, R73, R129, R131: bits that dispatch ignores change nothing an instruction does. The
one place they are seen is the word of 00EE's error record, so for 00EE an entry must be active.
That the term keeps those bits is the model's choice (log 12). -/
def Obligations.IgnoredBitsChangeNothing : Prop :=
  ∀ (x y z : Reg) (m n : Nibble) (s : State),
    exec (.op00E0 m) s = exec (.op00E0 n) s ∧
    exec (.op5XY0 x y m) s = exec (.op5XY0 x y n) s ∧
    exec (.op9XY0 x y m) s = exec (.op9XY0 x y n) s ∧
    exec (.op8XY6 x y) s = exec (.op8XY6 x z) s ∧
    exec (.op8XYE x y) s = exec (.op8XYE x z) s ∧
    (s.sp ≠ 0 → exec (.op00EE m) s = exec (.op00EE n) s)

/-! ### The step -/

/-- R82, R48, R50, R39: when the two bytes at pc, big-endian, decode to an instruction, a Step is exec
of it. The host's event Step(r) runs it at the state that holds the draw r, and drops the draw after
it, whatever else is scheduled; with nothing scheduled the model's step adds nothing around exec. The
schedule and the place of the draw are the model's (log 6, 7). -/
def Obligations.StepRunsDecodedInstruction : Prop :=
  ∀ (s : State) (a b : Nat) (i : Instr),
    s.running → addr s.cfg s.pc.toNat = .ok a → addr s.cfg (s.pc.toNat + 1) = .ok b →
    decodeWord (BitVec.ofNat 16 ((s.memByte a).toNat * 256 + (s.memByte b).toNat)) = .ok i →
    (∀ r, ∃ t, exec i { s with draw := some r } = .next t ∧
      applyEvent (.step r) s = .next { t with draw := none }) ∧
    (s.schedule = [] → step s = exec i s)

/-- R185: an UNKNOWN word is reported, with its address and itself, and passed over; nothing else is
written. So it is for the event Step(r), whose draw is dropped unread, and for the model's step with
nothing scheduled (log 6, 7). -/
def Obligations.StepReportsUnknownWord : Prop :=
  ∀ (s : State) (a b : Nat) (w : Word) (err : DecodeError),
    s.running → addr s.cfg s.pc.toNat = .ok a → addr s.cfg (s.pc.toNat + 1) = .ok b →
    w = BitVec.ofNat 16 ((s.memByte a).toNat * 256 + (s.memByte b).toNat) →
    decodeWord w = .error err →
    (∀ r, ∃ t, applyEvent (.step r) s = .next t ∧
      t.errOut = s.errOut ++ [⟨.unknownOpcode, s.pc, some w, none⟩] ∧ t.pc = s.pc + 2 ∧
      t.draw = none ∧ ∀ e, e ≠ .errOut → e ≠ .pc → e ≠ .draw → agree e s t) ∧
    (s.schedule = [] → ∃ t, step s = .next t ∧
      t.errOut = s.errOut ++ [⟨.unknownOpcode, s.pc, some w, none⟩] ∧ t.pc = s.pc + 2 ∧
      ∀ e, e ≠ .errOut → e ≠ .pc → agree e s t)

/-- R188, R182, R190: under ADDR_POLICY = fault a fetch at pc ≥ 0xFFF raises ADDRESS_RANGE, with no
word and the first address past 0xFFF, in the event Step(r), whose draw is dropped, and in the model's
step with nothing scheduled. R188 is the spec's decision D1 (log 1); the fault as a next state is log
8; the place of the draw and the premise on the schedule are log 6 and 7. -/
def Obligations.FetchPastMemoryFaults : Prop :=
  ∀ s : State, s.running → s.cfg.addrPolicy = .fault → 0xFFF ≤ s.pc.toNat →
    (∀ r, ∃ t, applyEvent (.step r) s = .next t ∧
      FaultTaken { s with draw := none } t .addressRange none (some (max s.pc.toNat 0x1000))) ∧
    (s.schedule = [] → ∃ t, step s = .next t ∧
      FaultTaken s t .addressRange none (some (max s.pc.toNat 0x1000)))

/-- R32, R184, R192, R174, R39: while halted no Step is enabled, with or without a draw, and Tick,
KeySet, DrawAck and Reset still are; Reset leaves the halted state. The spec's decision D18 (log
22); a Step that is not enabled as a machine fault is the model's choice (log 8). -/
def Obligations.HaltedCoreTakesNoStep : Prop :=
  ∀ (s : State) (r : Byte) (k : Fin 16) (b : Bool), s.halted = true →
    stepCore s = .fault .stepWhileHalted ∧ applyEvent (.step r) s = .fault .stepWhileHalted ∧
    (∃ t, applyEvent .tick s = .next t ∧ t.halted = true) ∧
    (∃ t, applyEvent (.keySet k b) s = .next t ∧ t.halted = true) ∧
    (∃ t, applyEvent .drawAck s = .next t ∧ t.halted = true) ∧
    (∃ t, applyEvent .reset s = .next t ∧ t.halted = false ∧ t.faultCause = none)

/-- R205, R39 and the model's own schedule (log 7): the next event listed is the next thing that
happens, at the state with that event taken off the list. -/
def Obligations.ScheduledEventComesFirst : Prop :=
  ∀ (s : State) (e : Event) (es : List Event), s.schedule = e :: es →
    (e = .tick → step s = .next (s.withSchedule es).tick) ∧
    (∀ k b, e = .keySet k b → step s = .next ((s.withSchedule es).keySet k b)) ∧
    (e = .drawAck → step s = .next (s.withSchedule es).drawAck) ∧
    (e = .reset → step s = .next (s.withSchedule es).resetEvent) ∧
    (∀ rom, e = .load rom → step s = (s.withSchedule es).loadEvent rom) ∧
    (∀ r, e = .step r → step s = applyEvent (.step r) (s.withSchedule es))

/-- R48, R50 and log 15: a word placed by withFetchWord is what the next step runs. -/
def Obligations.PlacedWordRunsNext : Prop :=
  ∀ (s : State) (w : Nat) (i : Instr),
    s.running → s.cfg.addrPolicy = .wrap12 → decodeTableWord 16 w = some i →
    step (s.withFetchWord 16 w) = exec i (s.withFetchWord 16 w)

/-- R180, R85: a Step of a core that is not halted always completes: no instruction, no word and no
address makes exec, the event Step(r), or the model's step with nothing scheduled fail to answer a next
state. The entry to a fatal fault counts as a next state (log 8). The step of a schedule that begins
with another event is not this one (log 7): a scheduled Load can be refused. -/
def Obligations.EveryStepCompletes : Prop :=
  (∀ (i : Instr) (s : State), ∃ t, exec i s = .next t) ∧
  (∀ (s : State) (r : Byte), s.running → ∃ t, applyEvent (.step r) s = .next t) ∧
  (∀ s : State, s.atStep → ∃ t, step s = .next t)

/-! ### Control flow -/

/-- R102, R104. -/
def Obligations.JumpsSetPc : Prop :=
  ∀ (nnn : Addr12) (s : State),
    EncodedAs (.op1NNN nnn) (0x1000 + nnn.toNat) ∧ EncodedAs (.opBNNN nnn) (0xB000 + nnn.toNat) ∧
    (∃ t, exec (.op1NNN nnn) s = .next t ∧ OnlyWrites (.op1NNN nnn) s t ∧
      t.pc.toNat = nnn.toNat) ∧
    (∃ t, exec (.opBNNN nnn) s = .next t ∧ OnlyWrites (.opBNNN nnn) s t ∧
      t.pc.toNat = nnn.toNat + (s.getV 0).toNat)

/-- R103, R186: a call pushes its own address; the 17th nested call overflows. The spec's
decisions D4 and D5 (log 13, 20). -/
def Obligations.CallPushesOwnAddress : Prop :=
  ∀ (nnn : Addr12) (s : State),
    EncodedAs (.op2NNN nnn) (0x2000 + nnn.toNat) ∧
    (∀ h : s.sp.val < 16, ∃ t, exec (.op2NNN nnn) s = .next t ∧ OnlyWrites (.op2NNN nnn) s t ∧
      t.stack[s.sp.val] = s.pc ∧ t.sp.val = s.sp.val + 1 ∧ t.pc.toNat = nnn.toNat) ∧
    (s.sp.val = 16 → ∃ t, exec (.op2NNN nnn) s = .next t ∧
      FaultTaken s t .stackOverflow (some (BitVec.ofNat 16 (0x2000 + nnn.toNat))) none)

/-- R101, R187: a return goes to the word after the address it pops and leaves the entry; a return
with no active entry underflows. The spec's decision D4 (log 20). -/
def Obligations.ReturnPopsAddress : Prop :=
  ∀ (x : Nibble) (s : State),
    EncodedAs (.op00EE x) (0x00EE + 256 * x.toNat) ∧
    (∀ h : 0 < s.sp.val, ∃ t, exec (.op00EE x) s = .next t ∧ OnlyWrites (.op00EE x) s t ∧
      t.sp.val = s.sp.val - 1 ∧ t.pc = s.stack[s.sp.val - 1] + 2) ∧
    (s.sp.val = 0 → ∃ t, exec (.op00EE x) s = .next t ∧
      FaultTaken s t .stackUnderflow (some (BitVec.ofNat 16 (0x00EE + 256 * x.toNat))) none)

/-- R105: the call/return law, over any run of the machine, host events included, that never falls
to the caller's stack depth. R105 marks itself as derived; the runs are the model's, by log 7. -/
def Obligations.CallReturnLaw : Prop :=
  ∀ (nnn : Addr12) (x : Nibble) (s t u : State),
    s.sp.val < 16 → exec (.op2NNN nnn) s = .next t → RunAbove s.sp.val t u →
    u.sp.val = s.sp.val + 1 →
    ∃ v, exec (.op00EE x) u = .next v ∧ v.pc = s.pc + 2 ∧ v.sp = s.sp

/-! ### Conditional skips -/

/-- R111 to R114, R110, R71. The conditions are the spec's decision D22, from general knowledge
(log 17). -/
def Obligations.RegisterSkipsCompare : Prop :=
  ∀ (x y : Reg) (nn : Byte) (n : Nibble) (s : State),
    EncodedAs (.op3XNN x nn) (0x3000 + 256 * x.val + nn.toNat) ∧
    EncodedAs (.op4XNN x nn) (0x4000 + 256 * x.val + nn.toNat) ∧
    EncodedAs (.op5XY0 x y n) (0x5000 + 256 * x.val + 16 * y.val + n.toNat) ∧
    EncodedAs (.op9XY0 x y n) (0x9000 + 256 * x.val + 16 * y.val + n.toNat) ∧
    (∃ t, exec (.op3XNN x nn) s = .next t ∧ OnlyWrites (.op3XNN x nn) s t ∧
      t.pc = s.pc + if s.getV x = nn then 4 else 2) ∧
    (∃ t, exec (.op4XNN x nn) s = .next t ∧ OnlyWrites (.op4XNN x nn) s t ∧
      t.pc = s.pc + if s.getV x = nn then 2 else 4) ∧
    (∃ t, exec (.op5XY0 x y n) s = .next t ∧ OnlyWrites (.op5XY0 x y n) s t ∧
      t.pc = s.pc + if s.getV x = s.getV y then 4 else 2) ∧
    (∃ t, exec (.op9XY0 x y n) s = .next t ∧ OnlyWrites (.op9XY0 x y n) s t ∧
      t.pc = s.pc + if s.getV x = s.getV y then 2 else 4)

/-- R115, R116, R117: the key skips, for an index in range, and for any index under
KEY_INDEX_POLICY = mask4, which takes its low four bits. The spec's decisions D7 and D22 (log 2,
17). -/
def Obligations.KeySkipsTestKey : Prop :=
  ∀ (x : Reg) (k : Fin 16) (s : State),
    EncodedAs (.opEX9E x) (0xE09E + 256 * x.val) ∧ EncodedAs (.opEXA1 x) (0xE0A1 + 256 * x.val) ∧
    ((s.getV x).toNat ≤ 0xF ∨ s.cfg.keyIndexPolicy = .mask4 → k.val = (s.getV x).toNat % 16 →
      (∃ t, exec (.opEX9E x) s = .next t ∧ OnlyWrites (.opEX9E x) s t ∧
        t.pc = s.pc + if s.key[k.val] then 4 else 2) ∧
      (∃ t, exec (.opEXA1 x) s = .next t ∧ OnlyWrites (.opEXA1 x) s t ∧
        t.pc = s.pc + if s.key[k.val] then 2 else 4))

/-- R117, R189: under KEY_INDEX_POLICY = fault an index above 0xF raises KEY_INDEX_RANGE. The
spec's decision D7 (log 2). -/
def Obligations.KeyIndexOutOfRangeFaults : Prop :=
  ∀ (x : Reg) (s : State),
    s.cfg.keyIndexPolicy = .fault → 0xF < (s.getV x).toNat →
    (∃ t, exec (.opEX9E x) s = .next t ∧
      FaultTaken s t .keyIndexRange (some (BitVec.ofNat 16 (0xE09E + 256 * x.val)))
        (some (s.getV x).toNat)) ∧
    (∃ t, exec (.opEXA1 x) s = .next t ∧
      FaultTaken s t .keyIndexRange (some (BitVec.ofNat 16 (0xE0A1 + 256 * x.val)))
        (some (s.getV x).toNat))

/-! ### Register ALU -/

/-- R121, R122. 6XNN is the spec's decision D22 (log 17), the flag that 7XNN leaves alone D10 (log
19). -/
def Obligations.ImmediateLoadAndAdd : Prop :=
  ∀ (x : Reg) (nn : Byte) (s : State),
    EncodedAs (.op6XNN x nn) (0x6000 + 256 * x.val + nn.toNat) ∧
    EncodedAs (.op7XNN x nn) (0x7000 + 256 * x.val + nn.toNat) ∧
    (∃ t, exec (.op6XNN x nn) s = .next t ∧ OnlyWrites (.op6XNN x nn) s t ∧
      t.getV x = nn ∧ t.pc = s.pc + 2) ∧
    (∃ t, exec (.op7XNN x nn) s = .next t ∧ OnlyWrites (.op7XNN x nn) s t ∧
      (t.getV x).toNat = ((s.getV x).toNat + nn.toNat) % 256 ∧ t.pc = s.pc + 2)

/-- R123 to R126: copy and the bitwise operations, bit by bit, with no flag. The spec's decisions
D22 and D10 (log 17, 19). -/
def Obligations.CopyAndBitwise : Prop :=
  ∀ (x y : Reg) (s : State),
    EncodedAs (.op8XY0 x y) (0x8000 + 256 * x.val + 16 * y.val) ∧
    EncodedAs (.op8XY1 x y) (0x8001 + 256 * x.val + 16 * y.val) ∧
    EncodedAs (.op8XY2 x y) (0x8002 + 256 * x.val + 16 * y.val) ∧
    EncodedAs (.op8XY3 x y) (0x8003 + 256 * x.val + 16 * y.val) ∧
    (∃ t, exec (.op8XY0 x y) s = .next t ∧ OnlyWrites (.op8XY0 x y) s t ∧
      t.getV x = s.getV y ∧ t.pc = s.pc + 2) ∧
    (∃ t, exec (.op8XY1 x y) s = .next t ∧ OnlyWrites (.op8XY1 x y) s t ∧ t.pc = s.pc + 2 ∧
      ∀ k < 8, (t.getV x).getLsbD k = ((s.getV x).getLsbD k || (s.getV y).getLsbD k)) ∧
    (∃ t, exec (.op8XY2 x y) s = .next t ∧ OnlyWrites (.op8XY2 x y) s t ∧ t.pc = s.pc + 2 ∧
      ∀ k < 8, (t.getV x).getLsbD k = ((s.getV x).getLsbD k && (s.getV y).getLsbD k)) ∧
    (∃ t, exec (.op8XY3 x y) s = .next t ∧ OnlyWrites (.op8XY3 x y) s t ∧ t.pc = s.pc + 2 ∧
      ∀ k < 8, (t.getV x).getLsbD k = xor ((s.getV x).getLsbD k) ((s.getV y).getLsbD k))

/-- R127: the sum modulo 256 and the carry; with x = F the carry is what VF keeps. The order of
the two writes is the spec's decision D6 (log 18). -/
def Obligations.AddWritesSumThenCarry : Prop :=
  ∀ (x y : Reg) (s : State),
    EncodedAs (.op8XY4 x y) (0x8004 + 256 * x.val + 16 * y.val) ∧
    ∃ t, exec (.op8XY4 x y) s = .next t ∧ OnlyWrites (.op8XY4 x y) s t ∧ t.pc = s.pc + 2 ∧
      (x ≠ regF → (t.getV x).toNat = ((s.getV x).toNat + (s.getV y).toNat) % 256) ∧
      t.getV regF = if (s.getV x).toNat + (s.getV y).toNat > 255 then 1 else 0

/-- R128, R130: the two differences modulo 256, and no-borrow. The order of the two writes is the
spec's decision D6 (log 18). -/
def Obligations.SubtractWritesDifferenceThenNoBorrow : Prop :=
  ∀ (x y : Reg) (s : State),
    EncodedAs (.op8XY5 x y) (0x8005 + 256 * x.val + 16 * y.val) ∧
    EncodedAs (.op8XY7 x y) (0x8007 + 256 * x.val + 16 * y.val) ∧
    (∃ t, exec (.op8XY5 x y) s = .next t ∧ OnlyWrites (.op8XY5 x y) s t ∧ t.pc = s.pc + 2 ∧
      (x ≠ regF →
        ((t.getV x).toNat : Int) = (((s.getV x).toNat : Int) - ((s.getV y).toNat : Int)) % 256) ∧
      t.getV regF = if (s.getV y).toNat ≤ (s.getV x).toNat then 1 else 0) ∧
    (∃ t, exec (.op8XY7 x y) s = .next t ∧ OnlyWrites (.op8XY7 x y) s t ∧ t.pc = s.pc + 2 ∧
      (x ≠ regF →
        ((t.getV x).toNat : Int) = (((s.getV y).toNat : Int) - ((s.getV x).toNat : Int)) % 256) ∧
      t.getV regF = if (s.getV x).toNat ≤ (s.getV y).toNat then 1 else 0)

/-- R129, R131: the shifts read V[x] alone, and VF is the bit shifted out. The order of the two
writes is the spec's decision D6 (log 18). -/
def Obligations.ShiftsWriteResultThenBitOut : Prop :=
  ∀ (x y : Reg) (s : State),
    EncodedAs (.op8XY6 x y) (0x8006 + 256 * x.val + 16 * y.val) ∧
    EncodedAs (.op8XYE x y) (0x800E + 256 * x.val + 16 * y.val) ∧
    (∃ t, exec (.op8XY6 x y) s = .next t ∧ OnlyWrites (.op8XY6 x y) s t ∧ t.pc = s.pc + 2 ∧
      (x ≠ regF → (t.getV x).toNat = (s.getV x).toNat / 2) ∧
      (t.getV regF).toNat = (s.getV x).toNat % 2) ∧
    (∃ t, exec (.op8XYE x y) s = .next t ∧ OnlyWrites (.op8XYE x y) s t ∧ t.pc = s.pc + 2 ∧
      (x ≠ regF → (t.getV x).toNat = (s.getV x).toNat * 2 % 256) ∧
      (t.getV regF).toNat = (s.getV x).toNat / 128)

/-- R133, R120: with x = F the flag wins in every flag-producing instruction, and the operands are
those before any write. The spec's decision D6 (log 18). -/
def Obligations.FlagWinsWhenDestinationIsVF : Prop :=
  ∀ (y : Reg) (s : State),
    (∃ t, exec (.op8XY4 15 y) s = .next t ∧
      t.getV 15 = if (s.getV 15).toNat + (s.getV y).toNat > 255 then 1 else 0) ∧
    (∃ t, exec (.op8XY5 15 y) s = .next t ∧
      t.getV 15 = if (s.getV y).toNat ≤ (s.getV 15).toNat then 1 else 0) ∧
    (∃ t, exec (.op8XY6 15 y) s = .next t ∧ (t.getV 15).toNat = (s.getV 15).toNat % 2) ∧
    (∃ t, exec (.op8XY7 15 y) s = .next t ∧
      t.getV 15 = if (s.getV 15).toNat ≤ (s.getV y).toNat then 1 else 0) ∧
    (∃ t, exec (.op8XYE 15 y) s = .next t ∧ (t.getV 15).toNat = (s.getV 15).toNat / 128)

/-! ### Memory and index -/

/-- R141, R143: ANNN and FX29, with no masking of V[x]. -/
def Obligations.IndexLoads : Prop :=
  ∀ (nnn : Addr12) (x : Reg) (s : State),
    EncodedAs (.opANNN nnn) (0xA000 + nnn.toNat) ∧ EncodedAs (.opFX29 x) (0xF029 + 256 * x.val) ∧
    (∃ t, exec (.opANNN nnn) s = .next t ∧ OnlyWrites (.opANNN nnn) s t ∧
      t.i.toNat = nnn.toNat ∧ t.pc = s.pc + 2) ∧
    (∃ t, exec (.opFX29 x) s = .next t ∧ OnlyWrites (.opFX29 x) s t ∧
      t.i.toNat = (s.getV x).toNat * 5 ∧ t.pc = s.pc + 2)

/-- R142: I modulo 65536, and the flag of the wide sum, also with x = F. The wrap of I is the
spec's decision D3, the order of the writes D6 (log 16, 18). -/
def Obligations.IndexAddSetsRangeFlag : Prop :=
  ∀ (x : Reg) (s : State),
    EncodedAs (.opFX1E x) (0xF01E + 256 * x.val) ∧
    ∃ t, exec (.opFX1E x) s = .next t ∧ OnlyWrites (.opFX1E x) s t ∧ t.pc = s.pc + 2 ∧
      t.i.toNat = (s.i.toNat + (s.getV x).toNat) % 65536 ∧
      t.getV regF = if s.i.toNat + (s.getV x).toNat > 0xFFF then 1 else 0

/-- R144, R147: the three digits at I, I+1, I+2; ADDRESS_RANGE writes nothing. The spec's
decisions D1 and D21 (log 1, 22). -/
def Obligations.StoreDecimalDigits : Prop :=
  ∀ (x : Reg) (s : State),
    EncodedAs (.opFX33 x) (0xF033 + 256 * x.val) ∧
    (InRange s 3 → ∃ t, exec (.opFX33 x) s = .next t ∧ OnlyWrites (.opFX33 x) s t ∧
      t.pc = s.pc + 2 ∧
      (t.memByte (s.i.toNat % 4096)).toNat = (s.getV x).toNat / 100 ∧
      (t.memByte ((s.i.toNat + 1) % 4096)).toNat = (s.getV x).toNat / 10 % 10 ∧
      (t.memByte ((s.i.toNat + 2) % 4096)).toNat = (s.getV x).toNat % 10) ∧
    (¬ InRange s 3 → ∃ t, exec (.opFX33 x) s = .next t ∧
      FaultTaken s t .addressRange (some (BitVec.ofNat 16 (0xF033 + 256 * x.val)))
        (some (firstBad s)))

/-- R145, R147: V[0] to V[x] at I, I+1, …, then I += x + 1; ADDRESS_RANGE writes nothing. The
spec's decisions D1, D3 and D21 (log 1, 16, 22). -/
def Obligations.StoreRegistersAtIndex : Prop :=
  ∀ (x : Reg) (s : State),
    EncodedAs (.opFX55 x) (0xF055 + 256 * x.val) ∧
    (InRange s (x.val + 1) → ∃ t, exec (.opFX55 x) s = .next t ∧ OnlyWrites (.opFX55 x) s t ∧
      t.pc = s.pc + 2 ∧ t.i.toNat = (s.i.toNat + x.val + 1) % 65536 ∧
      ∀ j : Reg, j.val ≤ x.val → t.memByte ((s.i.toNat + j.val) % 4096) = s.getV j) ∧
    (¬ InRange s (x.val + 1) → ∃ t, exec (.opFX55 x) s = .next t ∧
      FaultTaken s t .addressRange (some (BitVec.ofNat 16 (0xF055 + 256 * x.val)))
        (some (firstBad s)))

/-- R146, R147: the inverse load. The spec's decisions D1, D3 and D21 (log 1, 16, 22). -/
def Obligations.LoadRegistersFromIndex : Prop :=
  ∀ (x : Reg) (s : State),
    EncodedAs (.opFX65 x) (0xF065 + 256 * x.val) ∧
    (InRange s (x.val + 1) → ∃ t, exec (.opFX65 x) s = .next t ∧ OnlyWrites (.opFX65 x) s t ∧
      t.pc = s.pc + 2 ∧ t.i.toNat = (s.i.toNat + x.val + 1) % 65536 ∧
      ∀ j : Reg, j.val ≤ x.val → t.getV j = s.memByte ((s.i.toNat + j.val) % 4096)) ∧
    (¬ InRange s (x.val + 1) → ∃ t, exec (.opFX65 x) s = .next t ∧
      FaultTaken s t .addressRange (some (BitVec.ofNat 16 (0xF065 + 256 * x.val)))
        (some (firstBad s)))

/-- R145, R146, S9 of 95_test_vectors: registers stored, then corrupted, then loaded from the same
I come back, and I ends at the same place. It rests on the spec's decisions D1 and D3 (log 1, 16).
-/
def Obligations.StoreThenLoadRestoresRegisters : Prop :=
  ∀ (x : Reg) (s t u : State),
    InRange s (x.val + 1) → exec (.opFX55 x) s = .next t →
    u.mem = t.mem → u.cfg = t.cfg → u.i = s.i →
    ∃ v, exec (.opFX65 x) u = .next v ∧ v.i = t.i ∧ ∀ j : Reg, j.val ≤ x.val → v.getV j = s.getV j

/-- R52, R54: a byte written is the byte read, at every address, the font's among them, and every
other address reads as before. R52 marks itself as derived; writable font bytes are the spec's
decision D20 (log 22). -/
def Obligations.MemoryReadsLastWrite : Prop :=
  ∀ (s : State) (a : Nat) (b : Byte),
    (s.setMemByte a b).memByte a = b ∧
    ∀ c, c ≠ a → (s.setMemByte a b).memByte c = s.memByte c

/-- R59, R209: two bytes that FX55 stores are the word that a later fetch at their address reads.
R59 and R209 mark themselves as derived. -/
def Obligations.StoredBytesAreFetched : Prop :=
  ∀ (x j : Reg) (s t u : State),
    InRange s (x.val + 1) → exec (.opFX55 x) s = .next t → j.val + 1 ≤ x.val →
    u.mem = t.mem → u.cfg = t.cfg → u.pc.toNat = s.i.toNat + j.val →
    ∃ k : Reg, k.val = j.val + 1 ∧ u.fetchWord = .ok (wordOfBytes (s.getV j) (s.getV k))

/-! ### Randomness -/

/-- R150, R151, over the free value: the draw masked by nn, whatever the draw is, and each CXNN gets
its own: a draw that was given is used up and the count kept, and with none given it is the next byte
of the free stream, which is then counted. The draw is the spec's decision D16, its form the model's
(log 6). -/
def Obligations.RandomIsMaskedDraw : Prop :=
  ∀ (x : Reg) (nn : Byte) (s : State),
    EncodedAs (.opCXNN x nn) (0xC000 + 256 * x.val + nn.toNat) ∧
    ∃ t, exec (.opCXNN x nn) s = .next t ∧ OnlyWrites (.opCXNN x nn) s t ∧ t.pc = s.pc + 2 ∧
      t.draw = none ∧
      (∀ r, s.draw = some r → t.getV x = r &&& nn ∧ t.drawCount = s.drawCount) ∧
      (s.draw = none →
        t.getV x = Config.randomByte s.drawCount &&& nn ∧ t.drawCount = s.drawCount + 1)

/-- R150, R151, R39: the event Step(r), at a CXNN, writes r & nn, for every r. The draw is the
spec's decision D16, its form the model's (log 6). -/
def Obligations.StepWithDrawWritesThatDraw : Prop :=
  ∀ (x : Reg) (nn r : Byte) (w : Word) (s : State),
    s.running → s.fetchWord = .ok w → decodeWord w = .ok (.opCXNN x nn) →
    ∃ t, applyEvent (.step r) s = .next t ∧ t.getV x = r &&& nn ∧ t.pc = s.pc + 2

/-- R151: no instruction but CXNN reads the draw: with another draw it does the same. The draw is
the spec's decision D16, its form the model's (log 6). -/
def Obligations.OnlyRandomReadsDraw : Prop :=
  ∀ (i : Instr) (s t : State) (d : Option Byte) (k : Nat),
    (∀ x nn, i ≠ .opCXNN x nn) → exec i s = .next t →
    exec i { s with draw := d, drawCount := k } = .next { t with draw := d, drawCount := k }

/-! ### Drawing -/

/-- R164, R73. -/
def Obligations.ClearScreen : Prop :=
  ∀ (x : Nibble) (s : State),
    EncodedAs (.op00E0 x) (0x00E0 + 256 * x.toNat) ∧
    ∃ t, exec (.op00E0 x) s = .next t ∧ OnlyWrites (.op00E0 x) s t ∧ t.shouldDraw = true ∧
      t.pc = s.pc + 2 ∧ ∀ px < 64, ∀ py < 32, t.gfx.cell px py = false

/-- R161, R162, R147: the sprite pixel that falls on the cell at column `px`, row `py`, and what
the cell and VF become; ADDRESS_RANGE writes nothing. The spec's decisions D1, D6, D13, D17 and D21
(log 1, 4, 18, 22). -/
def Obligations.DrawXorsSpriteAndReportsCollision : Prop :=
  ∀ (x y : Reg) (n : Nat) (s : State), n < 16 →
    EncodedAs (.opDXYN x y n) (0xD000 + 256 * x.val + 16 * y.val + n) ∧
    (InRange s n →
      ∀ on : Nat → Nat → Bool,
        (∀ px py, on px py =
          (let col := (px + 64 - (s.getV x).toNat % 64) % 64
           let row := (py + 32 - (s.getV y).toNat % 32) % 32
           decide (row < n) && decide (col < 8) &&
             (s.memByte ((s.i.toNat + row) % 4096)).getLsbD
               (if s.cfg.spriteMsbLeft then 7 - col else col))) →
        ∃ t, exec (.opDXYN x y n) s = .next t ∧ OnlyWrites (.opDXYN x y n) s t ∧
          t.pc = s.pc + 2 ∧ t.shouldDraw = true ∧
          (∀ px < 64, ∀ py < 32, t.gfx.cell px py = xor (s.gfx.cell px py) (on px py)) ∧
          (t.getV regF = 0 ∨ t.getV regF = 1) ∧
          (t.getV regF = 1 ↔
            ∃ px < 64, ∃ py < 32, s.gfx.cell px py = true ∧ on px py = true)) ∧
    (¬ InRange s n → ∃ t, exec (.opDXYN x y n) s = .next t ∧
      FaultTaken s t .addressRange
        (some (BitVec.ofNat 16 (0xD000 + 256 * x.val + 16 * y.val + n))) (some (firstBad s)))

/-- R161, corner cases: the same sprite drawn twice at the same place restores the screen. The second
draw reports a collision exactly if the first turned a cell on; from a clear screen, exactly if the
sprite has a 1 bit. (R161 says "if the sprite has any 1 bit" without the clear screen, which its own
pseudocode refutes where every covered cell was already 1; log 25.) -/
def Obligations.DrawTwiceRestoresScreen : Prop :=
  ∀ (x y : Reg) (n : Nat) (s t : State), n < 16 → InRange s n →
    exec (.opDXYN x y n) s = .next t → t.getV x = s.getV x → t.getV y = s.getV y →
    ∃ u, exec (.opDXYN x y n) t = .next u ∧ u.gfx = s.gfx ∧
      (u.getV regF = 1 ↔
        ∃ px < 64, ∃ py < 32, s.gfx.cell px py = false ∧ t.gfx.cell px py = true) ∧
      ((∀ px < 64, ∀ py < 32, s.gfx.cell px py = false) →
        (u.getV regF = 1 ↔ ∃ k < n, s.memByte ((s.i.toNat + k) % 4096) ≠ 0))

/-- R163: after a DXYN, VF = 1 says that a cell went from 1 to 0 in that draw and VF = 0 that none
did; and no other instruction reads the screen. R163 marks itself as derived. -/
def Obligations.CollisionIsAClearedCell : Prop :=
  (∀ (x y : Reg) (n : Nat) (s t : State), n < 16 → InRange s n →
    exec (.opDXYN x y n) s = .next t →
    (t.getV regF = 1 ↔
      ∃ px < 64, ∃ py < 32, s.gfx.cell px py = true ∧ t.gfx.cell px py = false) ∧
    (t.getV regF = 0 ↔
      ∀ px < 64, ∀ py < 32, s.gfx.cell px py = true → t.gfx.cell px py = true)) ∧
  (∀ (i : Instr) (s t : State) (g : Screen), (∀ x y n, i ≠ .opDXYN x y n) →
    exec i s = .next t → ∃ h, exec i { s with gfx := g } = .next { t with gfx := h })

/-- R165, R31: a step sets should_draw only by drawing or clearing, and clears it only where the
host applied DrawAck, or Reset. The spec's decision D14 (log 21); the schedule is the model's (log
7). -/
def Obligations.RedrawFlagRule : Prop :=
  (∀ (i : Instr) (s t : State), exec i s = .next t → t.shouldDraw ≠ s.shouldDraw →
    t.shouldDraw = true ∧ ((∃ x, i = .op00E0 x) ∨ ∃ x y n, i = .opDXYN x y n)) ∧
  (∀ s t : State, step s = .next t → s.shouldDraw = true → t.shouldDraw = false →
    ∃ es, s.schedule = .drawAck :: es ∨ s.schedule = .reset :: es)

/-! ### Timers and keys -/

/-- R170, R171, R172. The directions are the spec's decision D22, from general knowledge (log 17).
-/
def Obligations.TimerCopies : Prop :=
  ∀ (x : Reg) (s : State),
    EncodedAs (.opFX07 x) (0xF007 + 256 * x.val) ∧ EncodedAs (.opFX15 x) (0xF015 + 256 * x.val) ∧
    EncodedAs (.opFX18 x) (0xF018 + 256 * x.val) ∧
    (∃ t, exec (.opFX07 x) s = .next t ∧ OnlyWrites (.opFX07 x) s t ∧ t.getV x = s.dt ∧
      t.pc = s.pc + 2) ∧
    (∃ t, exec (.opFX15 x) s = .next t ∧ OnlyWrites (.opFX15 x) s t ∧ t.dt = s.getV x ∧
      t.pc = s.pc + 2) ∧
    (∃ t, exec (.opFX18 x) s = .next t ∧ OnlyWrites (.opFX18 x) s t ∧ t.st = s.getV x ∧
      t.pc = s.pc + 2)

/-- R173, R85: the lowest pressed key's index, or, with none pressed, no change at all. -/
def Obligations.KeyWait : Prop :=
  ∀ (x : Reg) (s : State),
    EncodedAs (.opFX0A x) (0xF00A + 256 * x.val) ∧
    (∀ k : Fin 16, s.key[k.val] = true → (∀ j : Fin 16, j.val < k.val → s.key[j.val] = false) →
      ∃ t, exec (.opFX0A x) s = .next t ∧ OnlyWrites (.opFX0A x) s t ∧
        (t.getV x).toNat = k.val ∧ t.pc = s.pc + 2) ∧
    ((∀ k : Fin 16, s.key[k.val] = false) → exec (.opFX0A x) s = .next s)

/-- R174, R30: each timer goes down by exactly 1, with floor 0, in every state, and nothing else
changes. That a halted core still ticks is the spec's decision D18 (log 22). -/
def Obligations.TickCountsDown : Prop :=
  ∀ s : State, ∃ t, applyEvent .tick s = .next t ∧
    t.dt.toNat = s.dt.toNat - 1 ∧ t.st.toNat = s.st.toNat - 1 ∧
    ∀ e, e ≠ .dt → e ≠ .st → agree e s t

/-- R30, R175: no instruction reads ST: with another ST every instruction does the same, and
leaves ST as it was unless it is FX18. That each instruction does the same is the model's
inference from R30. -/
def Obligations.SoundTimerIsNeverRead : Prop :=
  ∀ (i : Instr) (s t : State) (b : Byte), exec i s = .next t →
    exec i { s with st := b } =
      .next { t with st := match i with | .opFX18 x => s.getV x | _ => b }

/-! ### Host events -/

/-- R39: KeySet writes one key and DrawAck the redraw flag; nothing else changes. The events are
the spec's decisions D14 and D19 (log 7, 21). -/
def Obligations.KeySetAndDrawAck : Prop :=
  ∀ (s : State) (k : Fin 16) (b : Bool),
    (∃ t, applyEvent (.keySet k b) s = .next t ∧ t.key[k.val] = b ∧
      (∀ j : Fin 16, j ≠ k → t.key[j.val] = s.key[j.val]) ∧ ∀ e, e ≠ .key → agree e s t) ∧
    (∃ t, applyEvent .drawAck s = .next t ∧ t.shouldDraw = false ∧
      ∀ e, e ≠ .shouldDraw → agree e s t)

/-- R200, R36, R201, R33: what Reset leaves, from every state: the values of R36, the configured font,
and the records already on err_out. The spec's decision D15 (log 14); the font is the configuration's,
whatever it is. That the model's own fields stay is the model's choice (log 10). -/
def Obligations.ResetRestoresInitialValues : Prop :=
  ∀ s : State, ∃ t, applyEvent .reset s = .next t ∧
    (∀ (a : Nat) (h : a < 80), t.memByte a = s.cfg.font[a]) ∧
    (∀ a, 80 ≤ a → a < 4096 → t.memByte a = 0) ∧
    (∀ x, t.getV x = 0) ∧ t.i = 0 ∧ t.pc = 0x200 ∧ (∀ k : Fin 16, t.stack[k.val] = 0) ∧
    t.sp = 0 ∧ (∀ px < 64, ∀ py < 32, t.gfx.cell px py = false) ∧
    (∀ k : Fin 16, t.key[k.val] = false) ∧ t.dt = 0 ∧ t.st = 0 ∧ t.shouldDraw = false ∧
    t.halted = false ∧ t.faultCause = none ∧ t.errOut = s.errOut ∧
    t.cfg = s.cfg ∧ t.draw = s.draw ∧ t.drawCount = s.drawCount ∧ t.schedule = s.schedule

/-- R202, R203: Load copies a ROM of at most 3584 bytes to 0x200 and on and changes nothing else;
a longer one is refused and changes nothing. The spec's decision D24 (log 9). -/
def Obligations.LoadCopiesRom : Prop :=
  ∀ (s : State) (rom : List Byte),
    (rom.length ≤ 3584 → ∃ t, s.load rom = (.ok, t) ∧
      (∀ (j : Nat) (h : j < rom.length), t.memByte (0x200 + j) = rom[j]) ∧
      ∀ e, (∀ j < rom.length, e ≠ .memByte (0x200 + j)) → agree e s t) ∧
    (3584 < rom.length → s.load rom = (.tooLarge, s))

/-- R202, R204, R38: the Load event directly after Reset, in any state, runs exactly that copy, or is
refused as too large; in a state that another Reset would change, so one that Reset did not just leave,
it is refused whatever the image (93 I24). The refusals of a host event, and what tells such a state,
are the model's choice (log 9). -/
def Obligations.LoadFollowsReset : Prop :=
  ∀ (s t : State) (rom : List Byte), applyEvent .reset s = .next t →
    (rom.length ≤ 3584 → applyEvent (.load rom) t = .next (t.load rom).2) ∧
    (3584 < rom.length → applyEvent (.load rom) t = .refused .loadTooLarge) ∧
    (t ≠ s → applyEvent (.load rom) s = .refused .loadNotAfterReset)

/-! ### Whole-machine rules -/

/-- R83, R35, R184: the frame of every instruction: without a fault nothing changes but what R35
lists; with one, nothing but the fault status and the error channel. A fault as a next state is
the model's choice (log 8); the model's own fields are log 5, 6, 7. -/
def Obligations.EveryInstructionKeepsItsFrame : Prop :=
  ∀ (i : Instr) (s t : State), exec i s = .next t →
    (t.errOut = s.errOut → OnlyWrites i s t) ∧
    (t.errOut ≠ s.errOut → ∀ e, ¬ faultElem e → agree e s t)

/-- R191, R184: every fault of a Step is precise: of the event Step(r), whose draw is dropped, and of
the model's step with nothing scheduled. The spec's decision D21 (log 22); a fault as a next state is
log 8, the draw and the schedule are log 6 and 7. -/
def Obligations.FaultsArePrecise : Prop :=
  (∀ (s t : State) (r : Byte), s.running → applyEvent (.step r) s = .next t → t.halted = true →
    ∃ cause w info, cause.fatal = true ∧ FaultTaken { s with draw := none } t cause w info) ∧
  (∀ s t : State, s.atStep → step s = .next t → t.halted = true →
    ∃ cause w info, cause.fatal = true ∧ FaultTaken s t cause w info)

/-- R33, R200: no step takes back a record, and a step adds at most one. The spec's decision D8
(log 10, 22). -/
def Obligations.ErrorChannelOnlyGrows : Prop :=
  ∀ s t : State, step s = .next t → ∃ rs, t.errOut = s.errOut ++ rs ∧ rs.length ≤ 1

/-- R7 and log 5: no step changes the machine's parameters. The field is the model's own. -/
def Obligations.ConfigurationIsFixed : Prop :=
  ∀ s t : State, step s = .next t → t.cfg = s.cfg

/-- R29, R43: the keys change only where the host sets one, or resets. The schedule is the model's
(log 7). -/
def Obligations.KeysChangeOnlyByHost : Prop :=
  ∀ s t : State, step s = .next t → t.key ≠ s.key →
    ∃ es, s.schedule = .reset :: es ∨ ∃ k b, s.schedule = .keySet k b :: es

/-- R212, R102, R104, R173: which Steps leave the whole state unchanged, whatever the host has
scheduled: of a core that is not halted, a 1NNN to its own address, an FX0A with no key pressed, and
(by R104, though R212 does not list it; log 24) a BNNN to its own address. The event Step(r) changes
nothing at exactly the same states, for every draw r, and so does the model's step with nothing
scheduled (log 6, 7). R212 is the spec's decision D25. -/
def Obligations.FixedPointsOfTheStep : Prop :=
  ∀ s : State,
    (s.fixedPoint ↔ s.running ∧ ∃ w, s.fetchWord = .ok w ∧
      ((∃ nnn, decodeWord w = .ok (.op1NNN nnn) ∧ s.pc.toNat = nnn.toNat) ∨
       (∃ nnn, decodeWord w = .ok (.opBNNN nnn) ∧ s.pc.toNat = nnn.toNat + (s.getV 0).toNat) ∨
       (∃ x, decodeWord w = .ok (.opFX0A x) ∧ ∀ k : Fin 16, s.key[k.val] = false))) ∧
    (∀ r, applyEvent (.step r) s = .next { s with draw := none } ↔ s.fixedPoint) ∧
    (s.schedule = [] → (step s = .next s ↔ s.fixedPoint))

/-- The invariant that every step keeps, host events included: a fault status that agrees with the last
record and pc (R32, R181, R184), and canonical memory, which is the model's own representation of R21
(log 11). -/
def Obligations.EveryStepKeepsInvariant : Prop :=
  ∀ s t : State, s.Inv → step s = .next t → t.Inv

/-- The invariant holds at reset (R36, R184); its clause on canonical memory is the model's own
representation of R21 (log 11). -/
def Obligations.ResetHasInvariant : Prop := State.reset.Inv
end

