-- ==== Sys2Proof/Laws/Memory.lean ====
section
/-! SUPPORT. Memory: a read after a write, other addresses, and the canonical form kept by every
operation. -/

namespace Sys2Proof.Machine

theorem lookup_insert_same (a : Nat) (b : Byte) (m : Memory) :
    Memory.lookup a (Memory.insert a b m) = some b := by
  induction m with
  | nil => simp [Memory.insert, Memory.lookup]
  | cons c m ih =>
    simp only [Memory.insert]
    split
    · simp [Memory.lookup]
    · split
      · simp [Memory.lookup]
      · rename_i h; simp [Memory.lookup, h, ih]

theorem lookup_insert_ne {a p : Nat} (h : p ≠ a) (b : Byte) (m : Memory) :
    Memory.lookup p (Memory.insert a b m) = Memory.lookup p m := by
  induction m with
  | nil => simp [Memory.insert, Memory.lookup, h.symm]
  | cons c m ih =>
    simp only [Memory.insert]
    split
    · simp [Memory.lookup, h.symm]
    · split
      · rename_i hc; simp [Memory.lookup, hc, h.symm]
      · simp [Memory.lookup, ih]

theorem lookup_remove_same (a : Nat) (m : Memory) : Memory.lookup a (Memory.remove a m) = none := by
  induction m with
  | nil => rfl
  | cons c m ih =>
    by_cases h : c.1 = a <;> simp [h, Memory.remove, Memory.lookup, ih]

theorem lookup_remove_ne {a p : Nat} (h : p ≠ a) (m : Memory) :
    Memory.lookup p (Memory.remove a m) = Memory.lookup p m := by
  induction m with
  | nil => rfl
  | cons c m ih =>
    by_cases hc : c.1 = a
    · simp [hc, Memory.remove, Memory.lookup, h.symm, ih]
    · simp [hc, Memory.remove, Memory.lookup, ih]

@[simp] theorem read_write_same (font : Font) (m : Memory) (a : Nat) (b : Byte) :
    Memory.read font (Memory.write font m a b) a = b := by
  unfold Memory.read Memory.write
  split
  · rename_i h; simp [lookup_remove_same, h]
  · simp [lookup_insert_same]

theorem read_write_ne (font : Font) (m : Memory) {a p : Nat} (h : p ≠ a) (b : Byte) :
    Memory.read font (Memory.write font m a b) p = Memory.read font m p := by
  unfold Memory.read Memory.write
  split
  · simp [lookup_remove_ne h]
  · simp [lookup_insert_ne h]

/-! ### The canonical form -/

theorem wf_cons (font : Font) (c : Host.Cell) (m : Memory) :
    Memory.wf font (c :: m) = true ↔
      c.1 < memSize ∧ c.2 ≠ initialByte font c.1 ∧ (∀ d ∈ m, c.1 < d.1) ∧
        Memory.wf font m = true := by
  simp [Memory.wf, and_assoc]

theorem mem_insert {a : Nat} {b : Byte} {m : Memory} {d : Host.Cell}
    (h : d ∈ Memory.insert a b m) : d = (a, b) ∨ d ∈ m := by
  induction m with
  | nil => simpa [Memory.insert] using h
  | cons c m ih =>
    simp only [Memory.insert] at h
    split at h
    · simpa using h
    · split at h
      · rcases List.mem_cons.1 h with h | h
        · exact .inl h
        · exact .inr (List.mem_cons_of_mem _ h)
      · rcases List.mem_cons.1 h with h | h
        · exact .inr (h ▸ List.mem_cons_self)
        · exact (ih h).imp_right (List.mem_cons_of_mem _)

theorem wf_insert {font : Font} {m : Memory} {a : Nat} {b : Byte} (hm : Memory.wf font m = true)
    (ha : a < memSize) (hb : b ≠ initialByte font a) :
    Memory.wf font (Memory.insert a b m) = true := by
  induction m with
  | nil => simp [Memory.insert, Memory.wf, ha, hb]
  | cons c m ih =>
    obtain ⟨h1, h2, h3, h4⟩ := (wf_cons _ _ _).1 hm
    simp only [Memory.insert]
    split
    · rename_i hlt
      refine (wf_cons _ _ _).2 ⟨ha, hb, fun d hd => ?_, hm⟩
      rcases List.mem_cons.1 hd with rfl | hd
      · exact hlt
      · exact hlt.trans (h3 d hd)
    · split
      · rename_i heq; subst heq
        exact (wf_cons _ _ _).2 ⟨ha, hb, h3, h4⟩
      · refine (wf_cons _ _ _).2 ⟨h1, h2, fun d hd => ?_, ih h4⟩
        rcases mem_insert hd with rfl | hd
        · exact lt_of_le_of_ne (by omega) ‹_›
        · exact h3 d hd

theorem mem_remove {a : Nat} {m : Memory} {d : Host.Cell} (h : d ∈ Memory.remove a m) : d ∈ m := by
  induction m with
  | nil => exact h
  | cons c m ih =>
    simp only [Memory.remove] at h
    split at h
    · exact List.mem_cons_of_mem _ (ih h)
    · rcases List.mem_cons.1 h with h | h
      · exact h ▸ List.mem_cons_self
      · exact List.mem_cons_of_mem _ (ih h)

theorem wf_remove {font : Font} {m : Memory} (a : Nat) (hm : Memory.wf font m = true) :
    Memory.wf font (Memory.remove a m) = true := by
  induction m with
  | nil => rfl
  | cons c m ih =>
    obtain ⟨h1, h2, h3, h4⟩ := (wf_cons _ _ _).1 hm
    simp only [Memory.remove]
    split
    · exact ih h4
    · exact (wf_cons _ _ _).2 ⟨h1, h2, fun d hd => h3 d (mem_remove hd), ih h4⟩

theorem wf_write {font : Font} {m : Memory} {a : Nat} (b : Byte) (hm : Memory.wf font m = true)
    (ha : a < memSize) : Memory.wf font (Memory.write font m a b) = true := by
  unfold Memory.write
  split
  · exact wf_remove a hm
  · exact wf_insert hm ha ‹_›

theorem wf_reset (font : Font) : Memory.wf font [] = true := rfl

end Sys2Proof.Machine
end

