-- ==== Sys2Proof/Laws/State.lean ====
section
/-! SUPPORT. One lemma per field per update of the state, each true by rfl, so that no proof unfolds a
record update. -/

namespace Sys2Proof.Machine

variable (s : State)

/-! ### setV -/

@[simp] theorem State.setV_mem (x : Reg) (b : Byte) : (s.setV x b).mem = s.mem := rfl
@[simp] theorem State.setV_v (x : Reg) (b : Byte) : (s.setV x b).v = s.v.set x.val b := rfl
@[simp] theorem State.setV_i (x : Reg) (b : Byte) : (s.setV x b).i = s.i := rfl
@[simp] theorem State.setV_pc (x : Reg) (b : Byte) : (s.setV x b).pc = s.pc := rfl
@[simp] theorem State.setV_stack (x : Reg) (b : Byte) : (s.setV x b).stack = s.stack := rfl
@[simp] theorem State.setV_sp (x : Reg) (b : Byte) : (s.setV x b).sp = s.sp := rfl
@[simp] theorem State.setV_gfx (x : Reg) (b : Byte) : (s.setV x b).gfx = s.gfx := rfl
@[simp] theorem State.setV_key (x : Reg) (b : Byte) : (s.setV x b).key = s.key := rfl
@[simp] theorem State.setV_dt (x : Reg) (b : Byte) : (s.setV x b).dt = s.dt := rfl
@[simp] theorem State.setV_st (x : Reg) (b : Byte) : (s.setV x b).st = s.st := rfl
@[simp] theorem State.setV_shouldDraw (x : Reg) (b : Byte) : (s.setV x b).shouldDraw = s.shouldDraw := rfl
@[simp] theorem State.setV_halted (x : Reg) (b : Byte) : (s.setV x b).halted = s.halted := rfl
@[simp] theorem State.setV_faultCause (x : Reg) (b : Byte) : (s.setV x b).faultCause = s.faultCause := rfl
@[simp] theorem State.setV_errOut (x : Reg) (b : Byte) : (s.setV x b).errOut = s.errOut := rfl
@[simp] theorem State.setV_cfg (x : Reg) (b : Byte) : (s.setV x b).cfg = s.cfg := rfl
@[simp] theorem State.setV_draw (x : Reg) (b : Byte) : (s.setV x b).draw = s.draw := rfl
@[simp] theorem State.setV_drawCount (x : Reg) (b : Byte) : (s.setV x b).drawCount = s.drawCount := rfl
@[simp] theorem State.setV_schedule (x : Reg) (b : Byte) : (s.setV x b).schedule = s.schedule := rfl

/-! ### setVs -/

@[simp] theorem State.setVs_mem (bs : List Byte) : (s.setVs bs).mem = s.mem := rfl
@[simp] theorem State.setVs_v (bs : List Byte) : (s.setVs bs).v = setRegsFrom 0 bs s.v := rfl
@[simp] theorem State.setVs_i (bs : List Byte) : (s.setVs bs).i = s.i := rfl
@[simp] theorem State.setVs_pc (bs : List Byte) : (s.setVs bs).pc = s.pc := rfl
@[simp] theorem State.setVs_stack (bs : List Byte) : (s.setVs bs).stack = s.stack := rfl
@[simp] theorem State.setVs_sp (bs : List Byte) : (s.setVs bs).sp = s.sp := rfl
@[simp] theorem State.setVs_gfx (bs : List Byte) : (s.setVs bs).gfx = s.gfx := rfl
@[simp] theorem State.setVs_key (bs : List Byte) : (s.setVs bs).key = s.key := rfl
@[simp] theorem State.setVs_dt (bs : List Byte) : (s.setVs bs).dt = s.dt := rfl
@[simp] theorem State.setVs_st (bs : List Byte) : (s.setVs bs).st = s.st := rfl
@[simp] theorem State.setVs_shouldDraw (bs : List Byte) : (s.setVs bs).shouldDraw = s.shouldDraw := rfl
@[simp] theorem State.setVs_halted (bs : List Byte) : (s.setVs bs).halted = s.halted := rfl
@[simp] theorem State.setVs_faultCause (bs : List Byte) : (s.setVs bs).faultCause = s.faultCause := rfl
@[simp] theorem State.setVs_errOut (bs : List Byte) : (s.setVs bs).errOut = s.errOut := rfl
@[simp] theorem State.setVs_cfg (bs : List Byte) : (s.setVs bs).cfg = s.cfg := rfl
@[simp] theorem State.setVs_draw (bs : List Byte) : (s.setVs bs).draw = s.draw := rfl
@[simp] theorem State.setVs_drawCount (bs : List Byte) : (s.setVs bs).drawCount = s.drawCount := rfl
@[simp] theorem State.setVs_schedule (bs : List Byte) : (s.setVs bs).schedule = s.schedule := rfl

/-! ### setFlag -/

@[simp] theorem State.setFlag_mem (b : Bool) : (s.setFlag b).mem = s.mem := rfl
@[simp] theorem State.setFlag_v (b : Bool) : (s.setFlag b).v = s.v.set regF.val (flagByte b) := rfl
@[simp] theorem State.setFlag_i (b : Bool) : (s.setFlag b).i = s.i := rfl
@[simp] theorem State.setFlag_pc (b : Bool) : (s.setFlag b).pc = s.pc := rfl
@[simp] theorem State.setFlag_stack (b : Bool) : (s.setFlag b).stack = s.stack := rfl
@[simp] theorem State.setFlag_sp (b : Bool) : (s.setFlag b).sp = s.sp := rfl
@[simp] theorem State.setFlag_gfx (b : Bool) : (s.setFlag b).gfx = s.gfx := rfl
@[simp] theorem State.setFlag_key (b : Bool) : (s.setFlag b).key = s.key := rfl
@[simp] theorem State.setFlag_dt (b : Bool) : (s.setFlag b).dt = s.dt := rfl
@[simp] theorem State.setFlag_st (b : Bool) : (s.setFlag b).st = s.st := rfl
@[simp] theorem State.setFlag_shouldDraw (b : Bool) : (s.setFlag b).shouldDraw = s.shouldDraw := rfl
@[simp] theorem State.setFlag_halted (b : Bool) : (s.setFlag b).halted = s.halted := rfl
@[simp] theorem State.setFlag_faultCause (b : Bool) : (s.setFlag b).faultCause = s.faultCause := rfl
@[simp] theorem State.setFlag_errOut (b : Bool) : (s.setFlag b).errOut = s.errOut := rfl
@[simp] theorem State.setFlag_cfg (b : Bool) : (s.setFlag b).cfg = s.cfg := rfl
@[simp] theorem State.setFlag_draw (b : Bool) : (s.setFlag b).draw = s.draw := rfl
@[simp] theorem State.setFlag_drawCount (b : Bool) : (s.setFlag b).drawCount = s.drawCount := rfl
@[simp] theorem State.setFlag_schedule (b : Bool) : (s.setFlag b).schedule = s.schedule := rfl

/-! ### setI -/

@[simp] theorem State.setI_mem (a : Word) : (s.setI a).mem = s.mem := rfl
@[simp] theorem State.setI_v (a : Word) : (s.setI a).v = s.v := rfl
@[simp] theorem State.setI_i (a : Word) : (s.setI a).i = a := rfl
@[simp] theorem State.setI_pc (a : Word) : (s.setI a).pc = s.pc := rfl
@[simp] theorem State.setI_stack (a : Word) : (s.setI a).stack = s.stack := rfl
@[simp] theorem State.setI_sp (a : Word) : (s.setI a).sp = s.sp := rfl
@[simp] theorem State.setI_gfx (a : Word) : (s.setI a).gfx = s.gfx := rfl
@[simp] theorem State.setI_key (a : Word) : (s.setI a).key = s.key := rfl
@[simp] theorem State.setI_dt (a : Word) : (s.setI a).dt = s.dt := rfl
@[simp] theorem State.setI_st (a : Word) : (s.setI a).st = s.st := rfl
@[simp] theorem State.setI_shouldDraw (a : Word) : (s.setI a).shouldDraw = s.shouldDraw := rfl
@[simp] theorem State.setI_halted (a : Word) : (s.setI a).halted = s.halted := rfl
@[simp] theorem State.setI_faultCause (a : Word) : (s.setI a).faultCause = s.faultCause := rfl
@[simp] theorem State.setI_errOut (a : Word) : (s.setI a).errOut = s.errOut := rfl
@[simp] theorem State.setI_cfg (a : Word) : (s.setI a).cfg = s.cfg := rfl
@[simp] theorem State.setI_draw (a : Word) : (s.setI a).draw = s.draw := rfl
@[simp] theorem State.setI_drawCount (a : Word) : (s.setI a).drawCount = s.drawCount := rfl
@[simp] theorem State.setI_schedule (a : Word) : (s.setI a).schedule = s.schedule := rfl

/-! ### setPc -/

@[simp] theorem State.setPc_mem (a : Word) : (s.setPc a).mem = s.mem := rfl
@[simp] theorem State.setPc_v (a : Word) : (s.setPc a).v = s.v := rfl
@[simp] theorem State.setPc_i (a : Word) : (s.setPc a).i = s.i := rfl
@[simp] theorem State.setPc_pc (a : Word) : (s.setPc a).pc = a := rfl
@[simp] theorem State.setPc_stack (a : Word) : (s.setPc a).stack = s.stack := rfl
@[simp] theorem State.setPc_sp (a : Word) : (s.setPc a).sp = s.sp := rfl
@[simp] theorem State.setPc_gfx (a : Word) : (s.setPc a).gfx = s.gfx := rfl
@[simp] theorem State.setPc_key (a : Word) : (s.setPc a).key = s.key := rfl
@[simp] theorem State.setPc_dt (a : Word) : (s.setPc a).dt = s.dt := rfl
@[simp] theorem State.setPc_st (a : Word) : (s.setPc a).st = s.st := rfl
@[simp] theorem State.setPc_shouldDraw (a : Word) : (s.setPc a).shouldDraw = s.shouldDraw := rfl
@[simp] theorem State.setPc_halted (a : Word) : (s.setPc a).halted = s.halted := rfl
@[simp] theorem State.setPc_faultCause (a : Word) : (s.setPc a).faultCause = s.faultCause := rfl
@[simp] theorem State.setPc_errOut (a : Word) : (s.setPc a).errOut = s.errOut := rfl
@[simp] theorem State.setPc_cfg (a : Word) : (s.setPc a).cfg = s.cfg := rfl
@[simp] theorem State.setPc_draw (a : Word) : (s.setPc a).draw = s.draw := rfl
@[simp] theorem State.setPc_drawCount (a : Word) : (s.setPc a).drawCount = s.drawCount := rfl
@[simp] theorem State.setPc_schedule (a : Word) : (s.setPc a).schedule = s.schedule := rfl

/-! ### advance -/

@[simp] theorem State.advance_mem (k : Word) : (s.advance k).mem = s.mem := rfl
@[simp] theorem State.advance_v (k : Word) : (s.advance k).v = s.v := rfl
@[simp] theorem State.advance_i (k : Word) : (s.advance k).i = s.i := rfl
@[simp] theorem State.advance_pc (k : Word) : (s.advance k).pc = s.pc + k := rfl
@[simp] theorem State.advance_stack (k : Word) : (s.advance k).stack = s.stack := rfl
@[simp] theorem State.advance_sp (k : Word) : (s.advance k).sp = s.sp := rfl
@[simp] theorem State.advance_gfx (k : Word) : (s.advance k).gfx = s.gfx := rfl
@[simp] theorem State.advance_key (k : Word) : (s.advance k).key = s.key := rfl
@[simp] theorem State.advance_dt (k : Word) : (s.advance k).dt = s.dt := rfl
@[simp] theorem State.advance_st (k : Word) : (s.advance k).st = s.st := rfl
@[simp] theorem State.advance_shouldDraw (k : Word) : (s.advance k).shouldDraw = s.shouldDraw := rfl
@[simp] theorem State.advance_halted (k : Word) : (s.advance k).halted = s.halted := rfl
@[simp] theorem State.advance_faultCause (k : Word) : (s.advance k).faultCause = s.faultCause := rfl
@[simp] theorem State.advance_errOut (k : Word) : (s.advance k).errOut = s.errOut := rfl
@[simp] theorem State.advance_cfg (k : Word) : (s.advance k).cfg = s.cfg := rfl
@[simp] theorem State.advance_draw (k : Word) : (s.advance k).draw = s.draw := rfl
@[simp] theorem State.advance_drawCount (k : Word) : (s.advance k).drawCount = s.drawCount := rfl
@[simp] theorem State.advance_schedule (k : Word) : (s.advance k).schedule = s.schedule := rfl

/-! ### setDt -/

@[simp] theorem State.setDt_mem (b : Byte) : (s.setDt b).mem = s.mem := rfl
@[simp] theorem State.setDt_v (b : Byte) : (s.setDt b).v = s.v := rfl
@[simp] theorem State.setDt_i (b : Byte) : (s.setDt b).i = s.i := rfl
@[simp] theorem State.setDt_pc (b : Byte) : (s.setDt b).pc = s.pc := rfl
@[simp] theorem State.setDt_stack (b : Byte) : (s.setDt b).stack = s.stack := rfl
@[simp] theorem State.setDt_sp (b : Byte) : (s.setDt b).sp = s.sp := rfl
@[simp] theorem State.setDt_gfx (b : Byte) : (s.setDt b).gfx = s.gfx := rfl
@[simp] theorem State.setDt_key (b : Byte) : (s.setDt b).key = s.key := rfl
@[simp] theorem State.setDt_dt (b : Byte) : (s.setDt b).dt = b := rfl
@[simp] theorem State.setDt_st (b : Byte) : (s.setDt b).st = s.st := rfl
@[simp] theorem State.setDt_shouldDraw (b : Byte) : (s.setDt b).shouldDraw = s.shouldDraw := rfl
@[simp] theorem State.setDt_halted (b : Byte) : (s.setDt b).halted = s.halted := rfl
@[simp] theorem State.setDt_faultCause (b : Byte) : (s.setDt b).faultCause = s.faultCause := rfl
@[simp] theorem State.setDt_errOut (b : Byte) : (s.setDt b).errOut = s.errOut := rfl
@[simp] theorem State.setDt_cfg (b : Byte) : (s.setDt b).cfg = s.cfg := rfl
@[simp] theorem State.setDt_draw (b : Byte) : (s.setDt b).draw = s.draw := rfl
@[simp] theorem State.setDt_drawCount (b : Byte) : (s.setDt b).drawCount = s.drawCount := rfl
@[simp] theorem State.setDt_schedule (b : Byte) : (s.setDt b).schedule = s.schedule := rfl

/-! ### setSt -/

@[simp] theorem State.setSt_mem (b : Byte) : (s.setSt b).mem = s.mem := rfl
@[simp] theorem State.setSt_v (b : Byte) : (s.setSt b).v = s.v := rfl
@[simp] theorem State.setSt_i (b : Byte) : (s.setSt b).i = s.i := rfl
@[simp] theorem State.setSt_pc (b : Byte) : (s.setSt b).pc = s.pc := rfl
@[simp] theorem State.setSt_stack (b : Byte) : (s.setSt b).stack = s.stack := rfl
@[simp] theorem State.setSt_sp (b : Byte) : (s.setSt b).sp = s.sp := rfl
@[simp] theorem State.setSt_gfx (b : Byte) : (s.setSt b).gfx = s.gfx := rfl
@[simp] theorem State.setSt_key (b : Byte) : (s.setSt b).key = s.key := rfl
@[simp] theorem State.setSt_dt (b : Byte) : (s.setSt b).dt = s.dt := rfl
@[simp] theorem State.setSt_st (b : Byte) : (s.setSt b).st = b := rfl
@[simp] theorem State.setSt_shouldDraw (b : Byte) : (s.setSt b).shouldDraw = s.shouldDraw := rfl
@[simp] theorem State.setSt_halted (b : Byte) : (s.setSt b).halted = s.halted := rfl
@[simp] theorem State.setSt_faultCause (b : Byte) : (s.setSt b).faultCause = s.faultCause := rfl
@[simp] theorem State.setSt_errOut (b : Byte) : (s.setSt b).errOut = s.errOut := rfl
@[simp] theorem State.setSt_cfg (b : Byte) : (s.setSt b).cfg = s.cfg := rfl
@[simp] theorem State.setSt_draw (b : Byte) : (s.setSt b).draw = s.draw := rfl
@[simp] theorem State.setSt_drawCount (b : Byte) : (s.setSt b).drawCount = s.drawCount := rfl
@[simp] theorem State.setSt_schedule (b : Byte) : (s.setSt b).schedule = s.schedule := rfl

/-! ### setMemByte -/

@[simp] theorem State.setMemByte_mem (a : Nat) (b : Byte) : (s.setMemByte a b).mem = Memory.write s.cfg.font s.mem a b := rfl
@[simp] theorem State.setMemByte_v (a : Nat) (b : Byte) : (s.setMemByte a b).v = s.v := rfl
@[simp] theorem State.setMemByte_i (a : Nat) (b : Byte) : (s.setMemByte a b).i = s.i := rfl
@[simp] theorem State.setMemByte_pc (a : Nat) (b : Byte) : (s.setMemByte a b).pc = s.pc := rfl
@[simp] theorem State.setMemByte_stack (a : Nat) (b : Byte) : (s.setMemByte a b).stack = s.stack := rfl
@[simp] theorem State.setMemByte_sp (a : Nat) (b : Byte) : (s.setMemByte a b).sp = s.sp := rfl
@[simp] theorem State.setMemByte_gfx (a : Nat) (b : Byte) : (s.setMemByte a b).gfx = s.gfx := rfl
@[simp] theorem State.setMemByte_key (a : Nat) (b : Byte) : (s.setMemByte a b).key = s.key := rfl
@[simp] theorem State.setMemByte_dt (a : Nat) (b : Byte) : (s.setMemByte a b).dt = s.dt := rfl
@[simp] theorem State.setMemByte_st (a : Nat) (b : Byte) : (s.setMemByte a b).st = s.st := rfl
@[simp] theorem State.setMemByte_shouldDraw (a : Nat) (b : Byte) : (s.setMemByte a b).shouldDraw = s.shouldDraw := rfl
@[simp] theorem State.setMemByte_halted (a : Nat) (b : Byte) : (s.setMemByte a b).halted = s.halted := rfl
@[simp] theorem State.setMemByte_faultCause (a : Nat) (b : Byte) : (s.setMemByte a b).faultCause = s.faultCause := rfl
@[simp] theorem State.setMemByte_errOut (a : Nat) (b : Byte) : (s.setMemByte a b).errOut = s.errOut := rfl
@[simp] theorem State.setMemByte_cfg (a : Nat) (b : Byte) : (s.setMemByte a b).cfg = s.cfg := rfl
@[simp] theorem State.setMemByte_draw (a : Nat) (b : Byte) : (s.setMemByte a b).draw = s.draw := rfl
@[simp] theorem State.setMemByte_drawCount (a : Nat) (b : Byte) : (s.setMemByte a b).drawCount = s.drawCount := rfl
@[simp] theorem State.setMemByte_schedule (a : Nat) (b : Byte) : (s.setMemByte a b).schedule = s.schedule := rfl

/-! ### present -/

@[simp] theorem State.present_mem (g : Screen) : (s.present g).mem = s.mem := rfl
@[simp] theorem State.present_v (g : Screen) : (s.present g).v = s.v := rfl
@[simp] theorem State.present_i (g : Screen) : (s.present g).i = s.i := rfl
@[simp] theorem State.present_pc (g : Screen) : (s.present g).pc = s.pc := rfl
@[simp] theorem State.present_stack (g : Screen) : (s.present g).stack = s.stack := rfl
@[simp] theorem State.present_sp (g : Screen) : (s.present g).sp = s.sp := rfl
@[simp] theorem State.present_gfx (g : Screen) : (s.present g).gfx = g := rfl
@[simp] theorem State.present_key (g : Screen) : (s.present g).key = s.key := rfl
@[simp] theorem State.present_dt (g : Screen) : (s.present g).dt = s.dt := rfl
@[simp] theorem State.present_st (g : Screen) : (s.present g).st = s.st := rfl
@[simp] theorem State.present_shouldDraw (g : Screen) : (s.present g).shouldDraw = true := rfl
@[simp] theorem State.present_halted (g : Screen) : (s.present g).halted = s.halted := rfl
@[simp] theorem State.present_faultCause (g : Screen) : (s.present g).faultCause = s.faultCause := rfl
@[simp] theorem State.present_errOut (g : Screen) : (s.present g).errOut = s.errOut := rfl
@[simp] theorem State.present_cfg (g : Screen) : (s.present g).cfg = s.cfg := rfl
@[simp] theorem State.present_draw (g : Screen) : (s.present g).draw = s.draw := rfl
@[simp] theorem State.present_drawCount (g : Screen) : (s.present g).drawCount = s.drawCount := rfl
@[simp] theorem State.present_schedule (g : Screen) : (s.present g).schedule = s.schedule := rfl

/-! ### report -/

@[simp] theorem State.report_mem (c : Cause) (w : Option Word) (info : Option Nat) : (s.report c w info).mem = s.mem := rfl
@[simp] theorem State.report_v (c : Cause) (w : Option Word) (info : Option Nat) : (s.report c w info).v = s.v := rfl
@[simp] theorem State.report_i (c : Cause) (w : Option Word) (info : Option Nat) : (s.report c w info).i = s.i := rfl
@[simp] theorem State.report_pc (c : Cause) (w : Option Word) (info : Option Nat) : (s.report c w info).pc = s.pc := rfl
@[simp] theorem State.report_stack (c : Cause) (w : Option Word) (info : Option Nat) : (s.report c w info).stack = s.stack := rfl
@[simp] theorem State.report_sp (c : Cause) (w : Option Word) (info : Option Nat) : (s.report c w info).sp = s.sp := rfl
@[simp] theorem State.report_gfx (c : Cause) (w : Option Word) (info : Option Nat) : (s.report c w info).gfx = s.gfx := rfl
@[simp] theorem State.report_key (c : Cause) (w : Option Word) (info : Option Nat) : (s.report c w info).key = s.key := rfl
@[simp] theorem State.report_dt (c : Cause) (w : Option Word) (info : Option Nat) : (s.report c w info).dt = s.dt := rfl
@[simp] theorem State.report_st (c : Cause) (w : Option Word) (info : Option Nat) : (s.report c w info).st = s.st := rfl
@[simp] theorem State.report_shouldDraw (c : Cause) (w : Option Word) (info : Option Nat) : (s.report c w info).shouldDraw = s.shouldDraw := rfl
@[simp] theorem State.report_halted (c : Cause) (w : Option Word) (info : Option Nat) : (s.report c w info).halted = s.halted := rfl
@[simp] theorem State.report_faultCause (c : Cause) (w : Option Word) (info : Option Nat) : (s.report c w info).faultCause = s.faultCause := rfl
@[simp] theorem State.report_errOut (c : Cause) (w : Option Word) (info : Option Nat) : (s.report c w info).errOut = s.errOut ++ [⟨c, s.pc, w, info⟩] := rfl
@[simp] theorem State.report_cfg (c : Cause) (w : Option Word) (info : Option Nat) : (s.report c w info).cfg = s.cfg := rfl
@[simp] theorem State.report_draw (c : Cause) (w : Option Word) (info : Option Nat) : (s.report c w info).draw = s.draw := rfl
@[simp] theorem State.report_drawCount (c : Cause) (w : Option Word) (info : Option Nat) : (s.report c w info).drawCount = s.drawCount := rfl
@[simp] theorem State.report_schedule (c : Cause) (w : Option Word) (info : Option Nat) : (s.report c w info).schedule = s.schedule := rfl

/-! ### raiseFault -/

@[simp] theorem State.raiseFault_mem (c : Cause) (w : Option Word) (info : Option Nat) : (s.raiseFault c w info).mem = s.mem := rfl
@[simp] theorem State.raiseFault_v (c : Cause) (w : Option Word) (info : Option Nat) : (s.raiseFault c w info).v = s.v := rfl
@[simp] theorem State.raiseFault_i (c : Cause) (w : Option Word) (info : Option Nat) : (s.raiseFault c w info).i = s.i := rfl
@[simp] theorem State.raiseFault_pc (c : Cause) (w : Option Word) (info : Option Nat) : (s.raiseFault c w info).pc = s.pc := rfl
@[simp] theorem State.raiseFault_stack (c : Cause) (w : Option Word) (info : Option Nat) : (s.raiseFault c w info).stack = s.stack := rfl
@[simp] theorem State.raiseFault_sp (c : Cause) (w : Option Word) (info : Option Nat) : (s.raiseFault c w info).sp = s.sp := rfl
@[simp] theorem State.raiseFault_gfx (c : Cause) (w : Option Word) (info : Option Nat) : (s.raiseFault c w info).gfx = s.gfx := rfl
@[simp] theorem State.raiseFault_key (c : Cause) (w : Option Word) (info : Option Nat) : (s.raiseFault c w info).key = s.key := rfl
@[simp] theorem State.raiseFault_dt (c : Cause) (w : Option Word) (info : Option Nat) : (s.raiseFault c w info).dt = s.dt := rfl
@[simp] theorem State.raiseFault_st (c : Cause) (w : Option Word) (info : Option Nat) : (s.raiseFault c w info).st = s.st := rfl
@[simp] theorem State.raiseFault_shouldDraw (c : Cause) (w : Option Word) (info : Option Nat) : (s.raiseFault c w info).shouldDraw = s.shouldDraw := rfl
@[simp] theorem State.raiseFault_halted (c : Cause) (w : Option Word) (info : Option Nat) : (s.raiseFault c w info).halted = true := rfl
@[simp] theorem State.raiseFault_faultCause (c : Cause) (w : Option Word) (info : Option Nat) : (s.raiseFault c w info).faultCause = some c := rfl
@[simp] theorem State.raiseFault_errOut (c : Cause) (w : Option Word) (info : Option Nat) : (s.raiseFault c w info).errOut = s.errOut ++ [⟨c, s.pc, w, info⟩] := rfl
@[simp] theorem State.raiseFault_cfg (c : Cause) (w : Option Word) (info : Option Nat) : (s.raiseFault c w info).cfg = s.cfg := rfl
@[simp] theorem State.raiseFault_draw (c : Cause) (w : Option Word) (info : Option Nat) : (s.raiseFault c w info).draw = s.draw := rfl
@[simp] theorem State.raiseFault_drawCount (c : Cause) (w : Option Word) (info : Option Nat) : (s.raiseFault c w info).drawCount = s.drawCount := rfl
@[simp] theorem State.raiseFault_schedule (c : Cause) (w : Option Word) (info : Option Nat) : (s.raiseFault c w info).schedule = s.schedule := rfl

/-! ### skipUnknown -/

@[simp] theorem State.skipUnknown_mem (w : Word) : (s.skipUnknown w).mem = s.mem := rfl
@[simp] theorem State.skipUnknown_v (w : Word) : (s.skipUnknown w).v = s.v := rfl
@[simp] theorem State.skipUnknown_i (w : Word) : (s.skipUnknown w).i = s.i := rfl
@[simp] theorem State.skipUnknown_pc (w : Word) : (s.skipUnknown w).pc = s.pc + 2 := rfl
@[simp] theorem State.skipUnknown_stack (w : Word) : (s.skipUnknown w).stack = s.stack := rfl
@[simp] theorem State.skipUnknown_sp (w : Word) : (s.skipUnknown w).sp = s.sp := rfl
@[simp] theorem State.skipUnknown_gfx (w : Word) : (s.skipUnknown w).gfx = s.gfx := rfl
@[simp] theorem State.skipUnknown_key (w : Word) : (s.skipUnknown w).key = s.key := rfl
@[simp] theorem State.skipUnknown_dt (w : Word) : (s.skipUnknown w).dt = s.dt := rfl
@[simp] theorem State.skipUnknown_st (w : Word) : (s.skipUnknown w).st = s.st := rfl
@[simp] theorem State.skipUnknown_shouldDraw (w : Word) : (s.skipUnknown w).shouldDraw = s.shouldDraw := rfl
@[simp] theorem State.skipUnknown_halted (w : Word) : (s.skipUnknown w).halted = s.halted := rfl
@[simp] theorem State.skipUnknown_faultCause (w : Word) : (s.skipUnknown w).faultCause = s.faultCause := rfl
@[simp] theorem State.skipUnknown_errOut (w : Word) : (s.skipUnknown w).errOut = s.errOut ++ [⟨.unknownOpcode, s.pc, some w, none⟩] := rfl
@[simp] theorem State.skipUnknown_cfg (w : Word) : (s.skipUnknown w).cfg = s.cfg := rfl
@[simp] theorem State.skipUnknown_draw (w : Word) : (s.skipUnknown w).draw = s.draw := rfl
@[simp] theorem State.skipUnknown_drawCount (w : Word) : (s.skipUnknown w).drawCount = s.drawCount := rfl
@[simp] theorem State.skipUnknown_schedule (w : Word) : (s.skipUnknown w).schedule = s.schedule := rfl

/-! ### tick -/

@[simp] theorem State.tick_mem : s.tick.mem = s.mem := rfl
@[simp] theorem State.tick_v : s.tick.v = s.v := rfl
@[simp] theorem State.tick_i : s.tick.i = s.i := rfl
@[simp] theorem State.tick_pc : s.tick.pc = s.pc := rfl
@[simp] theorem State.tick_stack : s.tick.stack = s.stack := rfl
@[simp] theorem State.tick_sp : s.tick.sp = s.sp := rfl
@[simp] theorem State.tick_gfx : s.tick.gfx = s.gfx := rfl
@[simp] theorem State.tick_key : s.tick.key = s.key := rfl
@[simp] theorem State.tick_dt : s.tick.dt = if s.dt = 0 then 0 else s.dt - 1 := rfl
@[simp] theorem State.tick_st : s.tick.st = if s.st = 0 then 0 else s.st - 1 := rfl
@[simp] theorem State.tick_shouldDraw : s.tick.shouldDraw = s.shouldDraw := rfl
@[simp] theorem State.tick_halted : s.tick.halted = s.halted := rfl
@[simp] theorem State.tick_faultCause : s.tick.faultCause = s.faultCause := rfl
@[simp] theorem State.tick_errOut : s.tick.errOut = s.errOut := rfl
@[simp] theorem State.tick_cfg : s.tick.cfg = s.cfg := rfl
@[simp] theorem State.tick_draw : s.tick.draw = s.draw := rfl
@[simp] theorem State.tick_drawCount : s.tick.drawCount = s.drawCount := rfl
@[simp] theorem State.tick_schedule : s.tick.schedule = s.schedule := rfl

/-! ### keySet -/

@[simp] theorem State.keySet_mem (k : Fin 16) (b : Bool) : (s.keySet k b).mem = s.mem := rfl
@[simp] theorem State.keySet_v (k : Fin 16) (b : Bool) : (s.keySet k b).v = s.v := rfl
@[simp] theorem State.keySet_i (k : Fin 16) (b : Bool) : (s.keySet k b).i = s.i := rfl
@[simp] theorem State.keySet_pc (k : Fin 16) (b : Bool) : (s.keySet k b).pc = s.pc := rfl
@[simp] theorem State.keySet_stack (k : Fin 16) (b : Bool) : (s.keySet k b).stack = s.stack := rfl
@[simp] theorem State.keySet_sp (k : Fin 16) (b : Bool) : (s.keySet k b).sp = s.sp := rfl
@[simp] theorem State.keySet_gfx (k : Fin 16) (b : Bool) : (s.keySet k b).gfx = s.gfx := rfl
@[simp] theorem State.keySet_key (k : Fin 16) (b : Bool) : (s.keySet k b).key = s.key.set k.val b := rfl
@[simp] theorem State.keySet_dt (k : Fin 16) (b : Bool) : (s.keySet k b).dt = s.dt := rfl
@[simp] theorem State.keySet_st (k : Fin 16) (b : Bool) : (s.keySet k b).st = s.st := rfl
@[simp] theorem State.keySet_shouldDraw (k : Fin 16) (b : Bool) : (s.keySet k b).shouldDraw = s.shouldDraw := rfl
@[simp] theorem State.keySet_halted (k : Fin 16) (b : Bool) : (s.keySet k b).halted = s.halted := rfl
@[simp] theorem State.keySet_faultCause (k : Fin 16) (b : Bool) : (s.keySet k b).faultCause = s.faultCause := rfl
@[simp] theorem State.keySet_errOut (k : Fin 16) (b : Bool) : (s.keySet k b).errOut = s.errOut := rfl
@[simp] theorem State.keySet_cfg (k : Fin 16) (b : Bool) : (s.keySet k b).cfg = s.cfg := rfl
@[simp] theorem State.keySet_draw (k : Fin 16) (b : Bool) : (s.keySet k b).draw = s.draw := rfl
@[simp] theorem State.keySet_drawCount (k : Fin 16) (b : Bool) : (s.keySet k b).drawCount = s.drawCount := rfl
@[simp] theorem State.keySet_schedule (k : Fin 16) (b : Bool) : (s.keySet k b).schedule = s.schedule := rfl

/-! ### drawAck -/

@[simp] theorem State.drawAck_mem : s.drawAck.mem = s.mem := rfl
@[simp] theorem State.drawAck_v : s.drawAck.v = s.v := rfl
@[simp] theorem State.drawAck_i : s.drawAck.i = s.i := rfl
@[simp] theorem State.drawAck_pc : s.drawAck.pc = s.pc := rfl
@[simp] theorem State.drawAck_stack : s.drawAck.stack = s.stack := rfl
@[simp] theorem State.drawAck_sp : s.drawAck.sp = s.sp := rfl
@[simp] theorem State.drawAck_gfx : s.drawAck.gfx = s.gfx := rfl
@[simp] theorem State.drawAck_key : s.drawAck.key = s.key := rfl
@[simp] theorem State.drawAck_dt : s.drawAck.dt = s.dt := rfl
@[simp] theorem State.drawAck_st : s.drawAck.st = s.st := rfl
@[simp] theorem State.drawAck_shouldDraw : s.drawAck.shouldDraw = false := rfl
@[simp] theorem State.drawAck_halted : s.drawAck.halted = s.halted := rfl
@[simp] theorem State.drawAck_faultCause : s.drawAck.faultCause = s.faultCause := rfl
@[simp] theorem State.drawAck_errOut : s.drawAck.errOut = s.errOut := rfl
@[simp] theorem State.drawAck_cfg : s.drawAck.cfg = s.cfg := rfl
@[simp] theorem State.drawAck_draw : s.drawAck.draw = s.draw := rfl
@[simp] theorem State.drawAck_drawCount : s.drawAck.drawCount = s.drawCount := rfl
@[simp] theorem State.drawAck_schedule : s.drawAck.schedule = s.schedule := rfl

/-! ### endDraw -/

@[simp] theorem State.endDraw_mem : s.endDraw.mem = s.mem := rfl
@[simp] theorem State.endDraw_v : s.endDraw.v = s.v := rfl
@[simp] theorem State.endDraw_i : s.endDraw.i = s.i := rfl
@[simp] theorem State.endDraw_pc : s.endDraw.pc = s.pc := rfl
@[simp] theorem State.endDraw_stack : s.endDraw.stack = s.stack := rfl
@[simp] theorem State.endDraw_sp : s.endDraw.sp = s.sp := rfl
@[simp] theorem State.endDraw_gfx : s.endDraw.gfx = s.gfx := rfl
@[simp] theorem State.endDraw_key : s.endDraw.key = s.key := rfl
@[simp] theorem State.endDraw_dt : s.endDraw.dt = s.dt := rfl
@[simp] theorem State.endDraw_st : s.endDraw.st = s.st := rfl
@[simp] theorem State.endDraw_shouldDraw : s.endDraw.shouldDraw = s.shouldDraw := rfl
@[simp] theorem State.endDraw_halted : s.endDraw.halted = s.halted := rfl
@[simp] theorem State.endDraw_faultCause : s.endDraw.faultCause = s.faultCause := rfl
@[simp] theorem State.endDraw_errOut : s.endDraw.errOut = s.errOut := rfl
@[simp] theorem State.endDraw_cfg : s.endDraw.cfg = s.cfg := rfl
@[simp] theorem State.endDraw_draw : s.endDraw.draw = none := rfl
@[simp] theorem State.endDraw_drawCount : s.endDraw.drawCount = s.drawCount := rfl
@[simp] theorem State.endDraw_schedule : s.endDraw.schedule = s.schedule := rfl

/-! ### withSchedule -/

@[simp] theorem State.withSchedule_mem (es : List Event) : (s.withSchedule es).mem = s.mem := rfl
@[simp] theorem State.withSchedule_v (es : List Event) : (s.withSchedule es).v = s.v := rfl
@[simp] theorem State.withSchedule_i (es : List Event) : (s.withSchedule es).i = s.i := rfl
@[simp] theorem State.withSchedule_pc (es : List Event) : (s.withSchedule es).pc = s.pc := rfl
@[simp] theorem State.withSchedule_stack (es : List Event) : (s.withSchedule es).stack = s.stack := rfl
@[simp] theorem State.withSchedule_sp (es : List Event) : (s.withSchedule es).sp = s.sp := rfl
@[simp] theorem State.withSchedule_gfx (es : List Event) : (s.withSchedule es).gfx = s.gfx := rfl
@[simp] theorem State.withSchedule_key (es : List Event) : (s.withSchedule es).key = s.key := rfl
@[simp] theorem State.withSchedule_dt (es : List Event) : (s.withSchedule es).dt = s.dt := rfl
@[simp] theorem State.withSchedule_st (es : List Event) : (s.withSchedule es).st = s.st := rfl
@[simp] theorem State.withSchedule_shouldDraw (es : List Event) : (s.withSchedule es).shouldDraw = s.shouldDraw := rfl
@[simp] theorem State.withSchedule_halted (es : List Event) : (s.withSchedule es).halted = s.halted := rfl
@[simp] theorem State.withSchedule_faultCause (es : List Event) : (s.withSchedule es).faultCause = s.faultCause := rfl
@[simp] theorem State.withSchedule_errOut (es : List Event) : (s.withSchedule es).errOut = s.errOut := rfl
@[simp] theorem State.withSchedule_cfg (es : List Event) : (s.withSchedule es).cfg = s.cfg := rfl
@[simp] theorem State.withSchedule_draw (es : List Event) : (s.withSchedule es).draw = s.draw := rfl
@[simp] theorem State.withSchedule_drawCount (es : List Event) : (s.withSchedule es).drawCount = s.drawCount := rfl
@[simp] theorem State.withSchedule_schedule (es : List Event) : (s.withSchedule es).schedule = es := rfl
@[simp] theorem State.withSchedule_getV (es : List Event) (r : Reg) : (s.withSchedule es).getV r = s.getV r := rfl
@[simp] theorem State.withSchedule_memByte (es : List Event) (p : Nat) : (s.withSchedule es).memByte p = s.memByte p := rfl

/-! ### giveDraw -/

@[simp] theorem State.giveDraw_mem (b : Byte) : (s.giveDraw b).mem = s.mem := rfl
@[simp] theorem State.giveDraw_v (b : Byte) : (s.giveDraw b).v = s.v := rfl
@[simp] theorem State.giveDraw_i (b : Byte) : (s.giveDraw b).i = s.i := rfl
@[simp] theorem State.giveDraw_pc (b : Byte) : (s.giveDraw b).pc = s.pc := rfl
@[simp] theorem State.giveDraw_stack (b : Byte) : (s.giveDraw b).stack = s.stack := rfl
@[simp] theorem State.giveDraw_sp (b : Byte) : (s.giveDraw b).sp = s.sp := rfl
@[simp] theorem State.giveDraw_gfx (b : Byte) : (s.giveDraw b).gfx = s.gfx := rfl
@[simp] theorem State.giveDraw_key (b : Byte) : (s.giveDraw b).key = s.key := rfl
@[simp] theorem State.giveDraw_dt (b : Byte) : (s.giveDraw b).dt = s.dt := rfl
@[simp] theorem State.giveDraw_st (b : Byte) : (s.giveDraw b).st = s.st := rfl
@[simp] theorem State.giveDraw_shouldDraw (b : Byte) : (s.giveDraw b).shouldDraw = s.shouldDraw := rfl
@[simp] theorem State.giveDraw_halted (b : Byte) : (s.giveDraw b).halted = s.halted := rfl
@[simp] theorem State.giveDraw_faultCause (b : Byte) : (s.giveDraw b).faultCause = s.faultCause := rfl
@[simp] theorem State.giveDraw_errOut (b : Byte) : (s.giveDraw b).errOut = s.errOut := rfl
@[simp] theorem State.giveDraw_cfg (b : Byte) : (s.giveDraw b).cfg = s.cfg := rfl
@[simp] theorem State.giveDraw_draw (b : Byte) : (s.giveDraw b).draw = some b := rfl
@[simp] theorem State.giveDraw_drawCount (b : Byte) : (s.giveDraw b).drawCount = s.drawCount := rfl
@[simp] theorem State.giveDraw_schedule (b : Byte) : (s.giveDraw b).schedule = s.schedule := rfl
@[simp] theorem State.giveDraw_getV (b : Byte) (r : Reg) : (s.giveDraw b).getV r = s.getV r := rfl
@[simp] theorem State.giveDraw_memByte (b : Byte) (p : Nat) : (s.giveDraw b).memByte p = s.memByte p := rfl

/-! ### dropDraw -/

@[simp] theorem State.dropDraw_mem : s.dropDraw.mem = s.mem := by
  unfold State.dropDraw; split <;> rfl
@[simp] theorem State.dropDraw_v : s.dropDraw.v = s.v := by
  unfold State.dropDraw; split <;> rfl
@[simp] theorem State.dropDraw_i : s.dropDraw.i = s.i := by
  unfold State.dropDraw; split <;> rfl
@[simp] theorem State.dropDraw_pc : s.dropDraw.pc = s.pc := by
  unfold State.dropDraw; split <;> rfl
@[simp] theorem State.dropDraw_stack : s.dropDraw.stack = s.stack := by
  unfold State.dropDraw; split <;> rfl
@[simp] theorem State.dropDraw_sp : s.dropDraw.sp = s.sp := by
  unfold State.dropDraw; split <;> rfl
@[simp] theorem State.dropDraw_gfx : s.dropDraw.gfx = s.gfx := by
  unfold State.dropDraw; split <;> rfl
@[simp] theorem State.dropDraw_key : s.dropDraw.key = s.key := by
  unfold State.dropDraw; split <;> rfl
@[simp] theorem State.dropDraw_dt : s.dropDraw.dt = s.dt := by
  unfold State.dropDraw; split <;> rfl
@[simp] theorem State.dropDraw_st : s.dropDraw.st = s.st := by
  unfold State.dropDraw; split <;> rfl
@[simp] theorem State.dropDraw_shouldDraw : s.dropDraw.shouldDraw = s.shouldDraw := by
  unfold State.dropDraw; split <;> rfl
@[simp] theorem State.dropDraw_halted : s.dropDraw.halted = s.halted := by
  unfold State.dropDraw; split <;> rfl
@[simp] theorem State.dropDraw_faultCause : s.dropDraw.faultCause = s.faultCause := by
  unfold State.dropDraw; split <;> rfl
@[simp] theorem State.dropDraw_errOut : s.dropDraw.errOut = s.errOut := by
  unfold State.dropDraw; split <;> rfl
@[simp] theorem State.dropDraw_cfg : s.dropDraw.cfg = s.cfg := by
  unfold State.dropDraw; split <;> rfl
@[simp] theorem State.dropDraw_schedule : s.dropDraw.schedule = s.schedule := by
  unfold State.dropDraw; split <;> rfl

/-! ### Reads through updates of other parts -/

@[simp] theorem State.setV_memByte (x : Reg) (b : Byte) (p : Nat) : (s.setV x b).memByte p = s.memByte p := rfl
@[simp] theorem State.setVs_memByte (bs : List Byte) (p : Nat) : (s.setVs bs).memByte p = s.memByte p := rfl
@[simp] theorem State.setFlag_memByte (b : Bool) (p : Nat) : (s.setFlag b).memByte p = s.memByte p := rfl
@[simp] theorem State.setI_getV (a : Word) (r : Reg) : (s.setI a).getV r = s.getV r := rfl
@[simp] theorem State.setI_memByte (a : Word) (p : Nat) : (s.setI a).memByte p = s.memByte p := rfl
@[simp] theorem State.setPc_getV (a : Word) (r : Reg) : (s.setPc a).getV r = s.getV r := rfl
@[simp] theorem State.setPc_memByte (a : Word) (p : Nat) : (s.setPc a).memByte p = s.memByte p := rfl
@[simp] theorem State.advance_getV (k : Word) (r : Reg) : (s.advance k).getV r = s.getV r := rfl
@[simp] theorem State.advance_memByte (k : Word) (p : Nat) : (s.advance k).memByte p = s.memByte p := rfl
@[simp] theorem State.setDt_getV (b : Byte) (r : Reg) : (s.setDt b).getV r = s.getV r := rfl
@[simp] theorem State.setDt_memByte (b : Byte) (p : Nat) : (s.setDt b).memByte p = s.memByte p := rfl
@[simp] theorem State.setSt_getV (b : Byte) (r : Reg) : (s.setSt b).getV r = s.getV r := rfl
@[simp] theorem State.setSt_memByte (b : Byte) (p : Nat) : (s.setSt b).memByte p = s.memByte p := rfl
@[simp] theorem State.setMemByte_getV (a : Nat) (b : Byte) (r : Reg) : (s.setMemByte a b).getV r = s.getV r := rfl
@[simp] theorem State.present_getV (g : Screen) (r : Reg) : (s.present g).getV r = s.getV r := rfl
@[simp] theorem State.present_memByte (g : Screen) (p : Nat) : (s.present g).memByte p = s.memByte p := rfl
@[simp] theorem State.report_getV (c : Cause) (w : Option Word) (info : Option Nat) (r : Reg) : (s.report c w info).getV r = s.getV r := rfl
@[simp] theorem State.report_memByte (c : Cause) (w : Option Word) (info : Option Nat) (p : Nat) : (s.report c w info).memByte p = s.memByte p := rfl
@[simp] theorem State.raiseFault_getV (c : Cause) (w : Option Word) (info : Option Nat) (r : Reg) : (s.raiseFault c w info).getV r = s.getV r := rfl
@[simp] theorem State.raiseFault_memByte (c : Cause) (w : Option Word) (info : Option Nat) (p : Nat) : (s.raiseFault c w info).memByte p = s.memByte p := rfl
@[simp] theorem State.skipUnknown_getV (w : Word) (r : Reg) : (s.skipUnknown w).getV r = s.getV r := rfl
@[simp] theorem State.skipUnknown_memByte (w : Word) (p : Nat) : (s.skipUnknown w).memByte p = s.memByte p := rfl
@[simp] theorem State.tick_getV (r : Reg) : s.tick.getV r = s.getV r := rfl
@[simp] theorem State.tick_memByte (p : Nat) : s.tick.memByte p = s.memByte p := rfl
@[simp] theorem State.keySet_getV (k : Fin 16) (b : Bool) (r : Reg) : (s.keySet k b).getV r = s.getV r := rfl
@[simp] theorem State.keySet_memByte (k : Fin 16) (b : Bool) (p : Nat) : (s.keySet k b).memByte p = s.memByte p := rfl
@[simp] theorem State.drawAck_getV (r : Reg) : s.drawAck.getV r = s.getV r := rfl
@[simp] theorem State.drawAck_memByte (p : Nat) : s.drawAck.memByte p = s.memByte p := rfl
@[simp] theorem State.endDraw_getV (r : Reg) : s.endDraw.getV r = s.getV r := rfl
@[simp] theorem State.endDraw_memByte (p : Nat) : s.endDraw.memByte p = s.memByte p := rfl
@[simp] theorem State.dropDraw_getV (r : Reg) : s.dropDraw.getV r = s.getV r := by
  simp [State.getV]
@[simp] theorem State.dropDraw_memByte (p : Nat) : s.dropDraw.memByte p = s.memByte p := by
  simp [State.memByte]

end Sys2Proof.Machine
end

