-- ==== Sys2Proof/Laws/Ops.lean ====
section
/-! SUPPORT. What each shared operation does, said once. -/

namespace Sys2Proof.Machine

/-! ### Registers -/

@[simp] theorem getV_setV_same (s : State) (x : Reg) (b : Byte) : (s.setV x b).getV x = b := by
  simp [State.getV]

theorem getV_setV_ne (s : State) {x r : Reg} (h : r ≠ x) (b : Byte) :
    (s.setV x b).getV r = s.getV r := by
  have h' : x.val ≠ r.val := fun e => h (Fin.ext e.symm)
  simp [State.getV, h']

@[simp] theorem getV_setFlag_same (s : State) (b : Bool) :
    (s.setFlag b).getV regF = flagByte b := getV_setV_same s regF _

theorem getV_setFlag_ne (s : State) {r : Reg} (h : r ≠ regF) (b : Bool) :
    (s.setFlag b).getV r = s.getV r := getV_setV_ne s h _

theorem getElem_setRegsFrom (bs : List Byte) (v : Vector Byte 16) (k j : Nat) (hj : j < 16) :
    (setRegsFrom k bs v)[j] = if h : k ≤ j ∧ j - k < bs.length then bs[j - k]'h.2 else v[j] := by
  induction bs generalizing k v with
  | nil => simp [setRegsFrom]
  | cons b bs ih =>
    rw [setRegsFrom, ih]
    rcases lt_trichotomy j k with h | rfl | h
    · rw [dif_neg (by omega), dif_neg (by omega), Vector.getElem_setIfInBounds_ne]
      omega
    · rw [dif_neg (by omega), dif_pos (by simp)]
      simp [Vector.getElem_setIfInBounds_self]
    · by_cases hl : j - k < (b :: bs).length
      · have hl' : j - (k + 1) < bs.length := by simp at hl; omega
        rw [dif_pos ⟨by omega, hl'⟩, dif_pos ⟨by omega, hl⟩]
        have : j - k = (j - (k + 1)) + 1 := by omega
        simp [this]
      · rw [dif_neg (by simp at hl ⊢; omega), dif_neg (by omega), Vector.getElem_setIfInBounds_ne]
        omega

/-- The register block load: V[j] is the j-th byte, as far as there are bytes. -/
theorem getV_setVs (s : State) (bs : List Byte) (r : Reg) :
    (s.setVs bs).getV r = if h : r.val < bs.length then bs[r.val] else s.getV r := by
  simp [State.getV, getElem_setRegsFrom]

/-! ### Memory -/

@[simp] theorem memByte_setMemByte_same (s : State) (a : Nat) (b : Byte) :
    (s.setMemByte a b).memByte a = b := by
  simp [State.memByte]

theorem memByte_setMemByte_ne (s : State) {a p : Nat} (h : p ≠ a) (b : Byte) :
    (s.setMemByte a b).memByte p = s.memByte p := by
  simp [State.memByte, read_write_ne _ _ h]

/-- Storing bytes changes memory only. -/
theorem setMemBytes_eq (s : State) (cs : List (Nat × Byte)) :
    s.setMemBytes cs = { s with mem := (s.setMemBytes cs).mem } := by
  induction cs generalizing s with
  | nil => rfl
  | cons c cs ih => rw [State.setMemBytes, ih]; rfl

/-- Storing bytes leaves every other address alone. -/
theorem memByte_setMemBytes_notMem (s : State) (cs : List (Nat × Byte)) {p : Nat}
    (h : p ∉ cs.map Prod.fst) : (s.setMemBytes cs).memByte p = s.memByte p := by
  induction cs generalizing s with
  | nil => rfl
  | cons c cs ih =>
    simp only [List.map_cons, List.mem_cons, not_or] at h
    rw [State.setMemBytes, ih _ h.2, memByte_setMemByte_ne _ h.1]

/-- Bytes stored at distinct addresses are the bytes read there. -/
theorem memByte_setMemBytes_mem (s : State) (cs : List (Nat × Byte)) (hn : (cs.map Prod.fst).Nodup)
    {c : Nat × Byte} (hc : c ∈ cs) : (s.setMemBytes cs).memByte c.1 = c.2 := by
  induction cs generalizing s with
  | nil => simp at hc
  | cons d cs ih =>
    simp only [List.map_cons, List.nodup_cons] at hn
    rw [State.setMemBytes]
    rcases List.mem_cons.1 hc with rfl | hc
    · rw [memByte_setMemBytes_notMem _ _ hn.1, memByte_setMemByte_same]
    · exact ih _ hn.2 hc

/-- The canonical form of memory survives stores inside the address space. -/
theorem wf_setMemBytes (s : State) (cs : List (Nat × Byte)) (hs : Memory.wf s.cfg.font s.mem = true)
    (hc : ∀ c ∈ cs, c.1 < memSize) : Memory.wf s.cfg.font (s.setMemBytes cs).mem = true := by
  induction cs generalizing s with
  | nil => exact hs
  | cons c cs ih =>
    rw [State.setMemBytes]
    have h := wf_write (b := c.2) hs (hc c List.mem_cons_self)
    exact ih (s.setMemByte c.1 c.2) h fun d hd => hc d (List.mem_cons_of_mem _ hd)

/-! ### Address formation (R48, R147, R188) -/

theorem addr_lt {cfg : Config} {e a : Nat} (h : addr cfg e = .ok a) : a < memSize := by
  unfold addr at h
  split at h
  · cases h; unfold memSize; omega
  · split at h
    · cases h; exact Nat.mod_lt _ (by decide)
    · cases h

theorem addr_eq_mod {cfg : Config} {e a : Nat} (h : addr cfg e = .ok a) : a = e % 4096 := by
  unfold addr at h
  split at h
  · cases h; omega
  · split at h <;> cases h; rfl

theorem addr_ok {cfg : Config} {e : Nat} (h : cfg.addrPolicy = .wrap12 ∨ e ≤ 0xFFF) :
    addr cfg e = .ok (e % 4096) := by
  unfold addr
  split
  · congr 1; omega
  · rcases h with h | h
    · simp [h]
    · omega

theorem addr_error {cfg : Config} {e : Nat} (h : cfg.addrPolicy = .fault) (he : 0xFFF < e) :
    addr cfg e = .error e := by
  simp [addr, h, he]

/-- Where no address faults, the resolved addresses are the low 12 bits. -/
theorem addrRange_ok {cfg : Config} {e n : Nat}
    (h : cfg.addrPolicy = .wrap12 ∨ e + n ≤ 0x1000 ∨ n = 0) :
    addrRange cfg e n = .ok ((List.range n).map fun k => (e + k) % 4096) := by
  induction n generalizing e with
  | zero => rfl
  | succ n ih =>
    have h1 : cfg.addrPolicy = .wrap12 ∨ e ≤ 0xFFF := h.imp_right (by omega)
    have h2 : cfg.addrPolicy = .wrap12 ∨ e + 1 + n ≤ 0x1000 ∨ n = 0 := h.imp_right (by omega)
    rw [addrRange, addr_ok h1, ih h2]
    simp [List.range_succ_eq_map, Function.comp_def, Nat.add_assoc, Nat.add_comm 1]

/-- Otherwise the first address past 0xFFF is the one reported. -/
theorem addrRange_error {cfg : Config} {e n : Nat} (h : cfg.addrPolicy = .fault) (hn : n ≠ 0)
    (he : 0x1000 < e + n) : addrRange cfg e n = .error (max e 0x1000) := by
  induction n generalizing e with
  | zero => exact absurd rfl hn
  | succ n ih =>
    rw [addrRange]
    by_cases h1 : 0xFFF < e
    · rw [addr_error h h1, Nat.max_eq_left (by omega)]
    · rw [addr_ok (.inr (by omega)), ih (by omega) (by omega)]
      have : max (e + 1) 0x1000 = max e 0x1000 := by omega
      simp [this]

theorem addrRange_length {cfg : Config} {e n : Nat} {as : List Nat}
    (h : addrRange cfg e n = .ok as) : as.length = n := by
  induction n generalizing e as with
  | zero => cases h; rfl
  | succ n ih =>
    rw [addrRange] at h
    split at h
    · cases h
    · split at h
      · cases h
      · rename_i h'; cases h; simp [ih h']

theorem addrRange_lt {cfg : Config} {e n : Nat} {as : List Nat}
    (h : addrRange cfg e n = .ok as) : ∀ a ∈ as, a < memSize := by
  induction n generalizing e as with
  | zero => cases h; simp
  | succ n ih =>
    rw [addrRange] at h
    split at h
    · cases h
    · rename_i ha
      split at h
      · cases h
      · rename_i h'; cases h
        intro b hb
        rcases List.mem_cons.1 hb with rfl | hb
        · exact addr_lt ha
        · exact ih h' b hb

/-- The addresses of an access to at most 4096 bytes are distinct (R53). -/
theorem nodup_range_mod (e : Nat) {n : Nat} (h : n ≤ 4096) :
    ((List.range n).map fun k => (e + k) % 4096).Nodup := by
  refine List.Nodup.map_on ?_ List.nodup_range
  intro a ha b hb hab
  simp only [List.mem_range] at ha hb
  omega

/-! ### Reading and writing bytes -/

/-- A store that answers resolved all its addresses and changed memory only. -/
theorem writeBytes_cases {s t : State} {e : Nat} {bs : List Byte} (h : s.writeBytes e bs = .ok t) :
    ∃ as, addrRange s.cfg e bs.length = .ok as ∧ t = s.setMemBytes (as.zip bs) := by
  unfold State.writeBytes at h
  split at h
  · cases h
  · rename_i as ha; cases h; exact ⟨as, ha, rfl⟩

theorem readBytes_cases {s : State} {e n : Nat} {bs : List Byte} (h : s.readBytes e n = .ok bs) :
    ∃ as, addrRange s.cfg e n = .ok as ∧ bs = as.map s.memByte := by
  unfold State.readBytes at h
  split at h
  · cases h
  · rename_i as ha; cases h; exact ⟨as, ha, rfl⟩

/-! ### The return stack -/

/-- A push that answers wrote one entry and sp (R103). -/
theorem push_cases {s t : State} {a : Word} (h : s.push a = some t) :
    ∃ hs : s.sp.val < 16,
      t = { s with stack := s.stack.set s.sp.val a, sp := ⟨s.sp.val + 1, by omega⟩ } := by
  unfold State.push at h
  split at h
  · rename_i hs; cases h; exact ⟨hs, rfl⟩
  · cases h

theorem push_none_iff (s : State) (a : Word) : s.push a = none ↔ s.sp.val = 16 := by
  have := s.sp.isLt
  unfold State.push
  split <;> simp <;> omega

/-- A pop that answers gives the entry below sp, writes sp and keeps the entry (R26, R101). -/
theorem pop_cases {s t : State} {a : Word} (h : s.pop = some (a, t)) :
    ∃ hs : 0 < s.sp.val,
      a = s.stack[s.sp.val - 1] ∧ t = { s with sp := ⟨s.sp.val - 1, by omega⟩ } := by
  unfold State.pop at h
  split at h
  · cases h
  · rename_i hs; cases h; exact ⟨by omega, rfl, rfl⟩

theorem pop_none_iff (s : State) : s.pop = none ↔ s.sp.val = 0 := by
  unfold State.pop
  split <;> simp_all

/-! ### Skips and keys -/

theorem skipIf_eq (s : State) (c : Bool) : s.skipIf c = s.advance (if c then 4 else 2) := by
  cases c <;> rfl

theorem keyIndex_eq_some {cfg : Config} {b : Byte} {k : Fin 16} :
    keyIndex cfg b = some k ↔
      (b.toNat ≤ 0xF ∨ cfg.keyIndexPolicy = .mask4) ∧ k.val = b.toNat % 16 := by
  unfold keyIndex
  split
  · rename_i h
    simp only [Option.some.injEq, Fin.ext_iff, h, true_or, true_and]
    omega
  · rename_i h
    have hm : ((b.setWidth 4).toFin : Fin 16).val = b.toNat % 16 := by simp
    split <;> rename_i hp
    · simp [hp, h]
    · simp only [hp, Option.some.injEq, or_true, true_and, Fin.ext_iff]
      rw [hm]; exact eq_comm

theorem firstPressedFrom_eq_some {k : Nat} {keys : List Bool} {r : Nat} :
    firstPressedFrom k keys = some r ↔
      k ≤ r ∧ keys[r - k]? = some true ∧ ∀ j < r - k, keys[j]? = some false := by
  induction keys generalizing k with
  | nil => simp [firstPressedFrom]
  | cons d keys ih =>
    cases d with
    | true =>
      simp only [firstPressedFrom, if_true, Option.some.injEq]
      constructor
      · rintro rfl; simp
      · rintro ⟨h1, -, h3⟩
        by_contra hne
        have := h3 0 (by omega)
        simp at this
    | false =>
      rw [firstPressedFrom, if_neg (by simp), ih]
      constructor
      · rintro ⟨h1, h2, h3⟩
        have : r - k = (r - (k + 1)) + 1 := by omega
        refine ⟨by omega, by rw [this]; simpa using h2, fun j hj => ?_⟩
        cases j with
        | zero => rfl
        | succ j => simpa using h3 j (by omega)
      · rintro ⟨h1, h2, h3⟩
        have hne : r ≠ k := by
          rintro rfl; simp at h2
        have : r - k = (r - (k + 1)) + 1 := by omega
        rw [this] at h2
        refine ⟨by omega, by simpa using h2, fun j hj => ?_⟩
        simpa using h3 (j + 1) (by omega)

theorem firstPressedFrom_eq_none {k : Nat} {keys : List Bool} :
    firstPressedFrom k keys = none ↔ ∀ d ∈ keys, d = false := by
  induction keys generalizing k with
  | nil => simp [firstPressedFrom]
  | cons d keys ih => cases d <;> simp [firstPressedFrom, ih]

/-- The lowest pressed key (R173). -/
theorem firstPressed_eq_some (s : State) (r : Nat) :
    s.firstPressed = some r ↔
      ∃ h : r < 16, s.key[r] = true ∧ ∀ j (hj : j < r), s.key[j] = false := by
  unfold State.firstPressed
  rw [firstPressedFrom_eq_some]
  simp only [Nat.zero_le, Nat.sub_zero, true_and]
  constructor
  · rintro ⟨h1, h2⟩
    obtain ⟨hr, h1⟩ := List.getElem?_eq_some_iff.1 h1
    simp only [Vector.length_toList] at hr
    refine ⟨hr, by simpa using h1, fun j hj => ?_⟩
    obtain ⟨_, h⟩ := List.getElem?_eq_some_iff.1 (h2 j hj)
    simpa using h
  · rintro ⟨hr, h1, h2⟩
    refine ⟨List.getElem?_eq_some_iff.2 ⟨by simpa using hr, by simpa using h1⟩, fun j hj => ?_⟩
    exact List.getElem?_eq_some_iff.2 ⟨by simp; omega, by simpa using h2 j hj⟩

theorem firstPressed_eq_none (s : State) :
    s.firstPressed = none ↔ ∀ k : Fin 16, s.key[k.val] = false := by
  unfold State.firstPressed
  rw [firstPressedFrom_eq_none]
  constructor
  · intro h k; exact h _ (by simp)
  · intro h d hd
    obtain ⟨j, hj, rfl⟩ := List.getElem_of_mem hd
    simp only [Vector.length_toList] at hj
    simpa using h ⟨j, hj⟩

/-! ### The screen -/

@[simp] theorem cell_blankScreen (x y : Nat) : blankScreen.cell x y = false := by
  simp [Screen.cell, blankScreen]

theorem cell_toggle (g : Screen) (x y p q : Nat) :
    (g.toggle x y).cell p q =
      xor (g.cell p q) (decide (p % 64 = x % 64) && decide (q % 32 = y % 32)) := by
  unfold Screen.toggle
  by_cases hq : q % 32 = y % 32
  · by_cases hp : p % 64 = x % 64
    · simp [Screen.cell, hq, hp]
    · have hp' : ¬ x % 64 = p % 64 := fun e => hp e.symm
      simp [Screen.cell, hq, hp, hp']
  · have hq' : ¬ y % 32 = q % 32 := fun e => hq e.symm
    simp [Screen.cell, hq, hq']

/-- A screen is its 2048 cells (R28). -/
theorem screen_ext {g h : Screen} (e : ∀ x < 64, ∀ y < 32, g.cell x y = h.cell x y) : g = h := by
  apply Vector.ext
  intro y hy
  apply Vector.ext
  intro x hx
  have := e x hx y hy
  simpa [Screen.cell, Nat.mod_eq_of_lt hx, Nat.mod_eq_of_lt hy] using this

end Sys2Proof.Machine
end

