-- ==== Sys2Proof/Laws/Exec.lean ====
section
/-! SUPPORT. One spec lemma per meaning: what exec answers, so that no later proof unfolds a meaning.
An instruction with one path has one equation; one that may raise a fault has an equation for each
path, under the condition of its rule. -/

namespace Sys2Proof.Machine

variable (s : State) (x y : Reg) (m : Nibble) (nn : Byte) (nnn : Addr12)

/-! ### One path -/

theorem exec_op00E0 : exec (.op00E0 m) s = .next ((s.present blankScreen).advance 2) := rfl
theorem exec_op1NNN : exec (.op1NNN nnn) s = .next (s.setPc (zext16 nnn)) := rfl
theorem exec_opBNNN :
    exec (.opBNNN nnn) s = .next (s.setPc (zext16 nnn + (s.getV 0).setWidth 16)) := rfl
theorem exec_op3XNN :
    exec (.op3XNN x nn) s = .next (s.advance (if s.getV x = nn then 4 else 2)) := by
  simp [exec, exec3XNN, skipIf_eq]
theorem exec_op4XNN :
    exec (.op4XNN x nn) s = .next (s.advance (if s.getV x = nn then 2 else 4)) := by
  by_cases h : s.getV x = nn <;> simp [exec, exec4XNN, skipIf_eq, h]
theorem exec_op5XY0 :
    exec (.op5XY0 x y m) s = .next (s.advance (if s.getV x = s.getV y then 4 else 2)) := by
  simp [exec, exec5XY0, skipIf_eq]
theorem exec_op9XY0 :
    exec (.op9XY0 x y m) s = .next (s.advance (if s.getV x = s.getV y then 2 else 4)) := by
  by_cases h : s.getV x = s.getV y <;> simp [exec, exec9XY0, skipIf_eq, h]
theorem exec_op6XNN : exec (.op6XNN x nn) s = .next (s.aluWrite x nn) := rfl
theorem exec_op7XNN : exec (.op7XNN x nn) s = .next (s.aluWrite x (s.getV x + nn)) := rfl
theorem exec_op8XY0 : exec (.op8XY0 x y) s = .next (s.aluWrite x (s.getV y)) := rfl
theorem exec_op8XY1 : exec (.op8XY1 x y) s = .next (s.aluWrite x (s.getV x ||| s.getV y)) := rfl
theorem exec_op8XY2 : exec (.op8XY2 x y) s = .next (s.aluWrite x (s.getV x &&& s.getV y)) := rfl
theorem exec_op8XY3 : exec (.op8XY3 x y) s = .next (s.aluWrite x (s.getV x ^^^ s.getV y)) := rfl
theorem exec_op8XY4 : exec (.op8XY4 x y) s =
    .next (s.aluWriteFlag x (s.getV x + s.getV y) (carryFlag (s.getV x) (s.getV y))) := rfl
theorem exec_op8XY5 : exec (.op8XY5 x y) s =
    .next (s.aluWriteFlag x (s.getV x - s.getV y) (noBorrowFlag (s.getV x) (s.getV y))) := rfl
theorem exec_op8XY6 : exec (.op8XY6 x y) s =
    .next (s.aluWriteFlag x (s.getV x >>> 1) (shiftedOutRight (s.getV x))) := rfl
theorem exec_op8XY7 : exec (.op8XY7 x y) s =
    .next (s.aluWriteFlag x (s.getV y - s.getV x) (noBorrowFlag (s.getV y) (s.getV x))) := rfl
theorem exec_op8XYE : exec (.op8XYE x y) s =
    .next (s.aluWriteFlag x (s.getV x <<< 1) (shiftedOutLeft (s.getV x))) := rfl
theorem exec_opANNN : exec (.opANNN nnn) s = .next ((s.setI (zext16 nnn)).advance 2) := rfl
theorem exec_opCXNN : exec (.opCXNN x nn) s =
    .next ((s.dropDraw.setV x (s.drawByte &&& nn)).advance 2) := rfl
theorem exec_opFX07 : exec (.opFX07 x) s = .next ((s.setV x s.dt).advance 2) := rfl
theorem exec_opFX15 : exec (.opFX15 x) s = .next ((s.setDt (s.getV x)).advance 2) := rfl
theorem exec_opFX18 : exec (.opFX18 x) s = .next ((s.setSt (s.getV x)).advance 2) := rfl
theorem exec_opFX1E : exec (.opFX1E x) s =
    .next (((s.setI (s.i + (s.getV x).setWidth 16)).setFlag
      (indexRangeFlag s.i (s.getV x))).advance 2) := rfl
theorem exec_opFX29 : exec (.opFX29 x) s = .next ((s.setI (glyphAddr (s.getV x))).advance 2) := rfl

/-! ### FX0A: pressed, or waiting -/

theorem exec_opFX0A_pressed {k : Nat} (h : s.firstPressed = some k) :
    exec (.opFX0A x) s = .next ((s.setV x (BitVec.ofNat 8 k)).advance 2) := by
  simp [exec, execFX0A, h]
theorem exec_opFX0A_waiting (h : s.firstPressed = none) : exec (.opFX0A x) s = .next s := by
  simp [exec, execFX0A, h]

/-! ### Call and return -/

theorem exec_op2NNN_ok (h : s.sp.val < 16) : exec (.op2NNN nnn) s =
    .next (State.setPc { s with stack := s.stack.set s.sp.val s.pc, sp := ⟨s.sp.val + 1, by omega⟩ }
      (zext16 nnn)) := by
  simp [exec, exec2NNN, State.push, h]
theorem exec_op2NNN_overflow (h : s.sp.val = 16) : exec (.op2NNN nnn) s =
    .next (s.raiseFault .stackOverflow (some (encode (.op2NNN nnn))) none) := by
  simp [exec, exec2NNN, State.push, h]
theorem exec_op00EE_ok (h : 0 < s.sp.val) : exec (.op00EE m) s =
    .next (State.setPc { s with sp := ⟨s.sp.val - 1, by omega⟩ } (s.stack[s.sp.val - 1] + 2)) := by
  have h' : ¬ s.sp.val = 0 := by omega
  simp only [exec, exec00EE, State.pop, h', dite_false]
theorem exec_op00EE_underflow (h : s.sp.val = 0) : exec (.op00EE m) s =
    .next (s.raiseFault .stackUnderflow (some (encode (.op00EE m))) none) := by
  simp only [exec, exec00EE, State.pop, h, dite_true]

/-! ### Key skips -/

theorem exec_opEX9E_ok {k : Fin 16} (h : keyIndex s.cfg (s.getV x) = some k) :
    exec (.opEX9E x) s = .next (s.advance (if s.key[k.val] then 4 else 2)) := by
  simp [exec, execEX9E, State.testKey, h, skipIf_eq, State.keyDown]
theorem exec_opEX9E_fault (h : keyIndex s.cfg (s.getV x) = none) : exec (.opEX9E x) s =
    .next (s.raiseFault .keyIndexRange (some (encode (.opEX9E x))) (some (s.getV x).toNat)) := by
  simp [exec, execEX9E, State.testKey, h]
theorem exec_opEXA1_ok {k : Fin 16} (h : keyIndex s.cfg (s.getV x) = some k) :
    exec (.opEXA1 x) s = .next (s.advance (if s.key[k.val] then 2 else 4)) := by
  cases hk : s.key[k.val] <;> simp [exec, execEXA1, State.testKey, h, skipIf_eq, State.keyDown, hk]
theorem exec_opEXA1_fault (h : keyIndex s.cfg (s.getV x) = none) : exec (.opEXA1 x) s =
    .next (s.raiseFault .keyIndexRange (some (encode (.opEXA1 x))) (some (s.getV x).toNat)) := by
  simp [exec, execEXA1, State.testKey, h]

/-! ### Instructions that access memory -/

theorem exec_opFX33_ok {as : List Nat} (h : addrRange s.cfg s.indexAddr 3 = .ok as) :
    exec (.opFX33 x) s =
      .next ((s.setMemBytes (as.zip (decimalDigits (s.getV x)))).advance 2) := by
  simp [exec, execFX33, State.writeBytes, decimalDigits, h]
theorem exec_opFX33_fault {bad : Nat} (h : addrRange s.cfg s.indexAddr 3 = .error bad) :
    exec (.opFX33 x) s =
      .next (s.raiseFault .addressRange (some (encode (.opFX33 x))) (some bad)) := by
  simp [exec, execFX33, State.writeBytes, decimalDigits, h, State.addressFault]

@[simp] theorem regBlock_length : (s.regBlock x).length = x.val + 1 := by
  simp [State.regBlock]

/-- The register block of FX55, one byte at a time. -/
theorem getElem_regBlock {j : Nat} (h : j < (s.regBlock x).length) :
    (s.regBlock x)[j] = s.v[j]'(by simp at h; omega) := by
  simp [State.regBlock]

theorem exec_opFX55_ok {as : List Nat} (h : addrRange s.cfg s.indexAddr (x.val + 1) = .ok as) :
    exec (.opFX55 x) s =
      .next (((s.setMemBytes (as.zip (s.regBlock x))).setI (s.indexPast x)).advance 2) := by
  simp [exec, execFX55, State.writeBytes, h]
theorem exec_opFX55_fault {bad : Nat}
    (h : addrRange s.cfg s.indexAddr (x.val + 1) = .error bad) : exec (.opFX55 x) s =
      .next (s.raiseFault .addressRange (some (encode (.opFX55 x))) (some bad)) := by
  simp [exec, execFX55, State.writeBytes, h, State.addressFault]

theorem exec_opFX65_ok {as : List Nat} (h : addrRange s.cfg s.indexAddr (x.val + 1) = .ok as) :
    exec (.opFX65 x) s =
      .next (((s.setVs (as.map s.memByte)).setI (s.indexPast x)).advance 2) := by
  simp [exec, execFX65, State.readBytes, h]
theorem exec_opFX65_fault {bad : Nat}
    (h : addrRange s.cfg s.indexAddr (x.val + 1) = .error bad) : exec (.opFX65 x) s =
      .next (s.raiseFault .addressRange (some (encode (.opFX65 x))) (some bad)) := by
  simp [exec, execFX65, State.readBytes, h, State.addressFault]

theorem exec_opDXYN_ok {n : Nat} {as : List Nat} (h : addrRange s.cfg s.indexAddr n = .ok as) :
    exec (.opDXYN x y n) s =
      (let d := drawSprite s.cfg (s.getV x) (s.getV y) (as.map s.memByte) s.gfx
       .next (((s.setFlag d.2).present d.1).advance 2)) := by
  simp [exec, execDXYN, State.readBytes, h]
theorem exec_opDXYN_fault {n bad : Nat} (h : addrRange s.cfg s.indexAddr n = .error bad) :
    exec (.opDXYN x y n) s =
      .next (s.raiseFault .addressRange (some (encode (.opDXYN x y n))) (some bad)) := by
  simp [exec, execDXYN, State.readBytes, h, State.addressFault]

/-! ### The ALU templates -/

theorem getV_aluWrite_same (b : Byte) : (s.aluWrite x b).getV x = b := by
  simp [State.aluWrite]
theorem getV_aluWrite_ne {r : Reg} (h : r ≠ x) (b : Byte) : (s.aluWrite x b).getV r = s.getV r := by
  simp [State.aluWrite, getV_setV_ne _ h]
theorem getV_aluWriteFlag_flag (b : Byte) (f : Bool) :
    (s.aluWriteFlag x b f).getV regF = flagByte f := by
  simp [State.aluWriteFlag]
theorem getV_aluWriteFlag_result (h : x ≠ regF) (b : Byte) (f : Bool) :
    (s.aluWriteFlag x b f).getV x = b := by
  simp [State.aluWriteFlag, getV_setFlag_ne _ h]
theorem getV_aluWriteFlag_ne {r : Reg} (h : r ≠ x) (hf : r ≠ regF) (b : Byte) (f : Bool) :
    (s.aluWriteFlag x b f).getV r = s.getV r := by
  simp [State.aluWriteFlag, getV_setFlag_ne _ hf, getV_setV_ne _ h]

/-! ### Faults -/

/-- What the one operation that takes a fault does (R184, R191). -/
theorem raiseFault_faultTaken (c : Cause) (w : Option Word) (info : Option Nat) :
    FaultTaken s (s.raiseFault c w info) c w info := by
  refine ⟨rfl, rfl, rfl, fun e he => ?_⟩
  cases e <;> first | rfl | exact absurd (by simp [faultElem]) he

/-! ### Addresses in range -/

theorem addrRange_of_inRange {n : Nat} (h : InRange s n) :
    addrRange s.cfg s.indexAddr n = .ok ((List.range n).map fun k => (s.i.toNat + k) % 4096) :=
  addrRange_ok h

theorem addrRange_of_not_inRange {n : Nat} (h : ¬ InRange s n) :
    addrRange s.cfg s.indexAddr n = .error (firstBad s) := by
  simp only [InRange, not_or] at h
  refine addrRange_error ?_ h.2.2 (by have := h.2.1; unfold State.indexAddr; omega)
  cases hp : s.cfg.addrPolicy with
  | wrap12 => exact absurd hp h.1
  | fault => rfl

end Sys2Proof.Machine
end

