-- ==== Sys2Proof/Laws/Drawing.lean ====
section
/-! SUPPORT. The sprite engine, cell by cell: what drawing a row, and then all rows, does to one cell
and to the collision flag (R161). -/

namespace Sys2Proof.Machine

theorem drawPixel_cell (on : Bool) (px py : Nat) (d : Screen × Bool) (p q : Nat) :
    (drawPixel on px py d).1.cell p q =
      xor (d.1.cell p q) (on && (decide (p % 64 = px % 64) && decide (q % 32 = py % 32))) := by
  cases on <;> simp [drawPixel, cell_toggle]

theorem cell_mod (g : Screen) (p q : Nat) : g.cell (p % 64) (q % 32) = g.cell p q := by
  simp [Screen.cell]

/-- `k` pixels of a row from column `col` on, for k small enough that no cell is met twice: a cell of
another row, or of no column drawn, keeps its value; the cell of column `col + j` is XORed with the
sprite's bit. -/
theorem drawColumns_cell (cfg : Config) (b : Byte) (x0 py p q : Nat) (k col : Nat)
    (d : Screen × Bool) :
    (drawColumns cfg b x0 py col k d).1.cell p q =
      xor (d.1.cell p q)
        (decide (q % 32 = py % 32) &&
          ((List.range k).map fun j =>
            decide (p % 64 = (x0 + col + j) % 64) && spriteBit cfg b (col + j)).foldl xor false) := by
  induction k generalizing col d with
  | zero => simp [drawColumns]
  | succ k ih =>
    have hf : ∀ (l : List Bool) (a : Bool), l.foldl xor a = xor a (l.foldl xor false) := by
      intro l
      induction l with
      | nil => simp
      | cons c l ihl => intro a; rw [List.foldl_cons, List.foldl_cons, ihl, ihl (xor false c)]; simp
    rw [drawColumns, ih, drawPixel_cell, List.range_succ_eq_map]
    simp only [List.map_cons, List.map_map, List.foldl_cons, Function.comp_def, Nat.add_zero,
      Nat.succ_eq_add_one]
    rw [hf _ (xor false _)]
    simp only [Nat.add_assoc, Nat.add_comm 1]
    generalize List.foldl xor false _ = z
    cases d.1.cell p q <;> cases spriteBit cfg b col <;>
      cases decide (q % 32 = py % 32) <;> cases decide (p % 64 = (x0 + col) % 64) <;>
      cases z <;> rfl

/-- The collision flag of `k` pixels of a row. -/
theorem drawColumns_hit (cfg : Config) (b : Byte) (x0 py : Nat) (k col : Nat) (d : Screen × Bool)
    (hk : k ≤ 64) :
    (drawColumns cfg b x0 py col k d).2 = true ↔
      d.2 = true ∨ ∃ j < k, spriteBit cfg b (col + j) = true ∧ d.1.cell (x0 + col + j) py = true := by
  induction k generalizing col d with
  | zero => simp [drawColumns]
  | succ k ih =>
    rw [drawColumns, ih _ _ (by omega)]
    have hc : ∀ j < k, (drawPixel (spriteBit cfg b col) (x0 + col) py d).1.cell
        (x0 + (col + 1) + j) py = d.1.cell (x0 + (col + 1) + j) py := by
      intro j hj
      rw [drawPixel_cell]
      have : ¬ (x0 + (col + 1) + j) % 64 = (x0 + col) % 64 := by omega
      simp [this]
    have h0 : (drawPixel (spriteBit cfg b col) (x0 + col) py d).2 = true ↔
        d.2 = true ∨ (spriteBit cfg b col = true ∧ d.1.cell (x0 + col) py = true) := by
      cases hs : spriteBit cfg b col <;> simp [drawPixel]
    rw [h0, or_assoc]
    refine or_congr Iff.rfl ⟨?_, ?_⟩
    · rintro (h | ⟨j, hj, h1, h2⟩)
      · exact ⟨0, by omega, h⟩
      · rw [hc j hj] at h2
        exact ⟨j + 1, by omega, by rw [← h1]; congr 1; omega, by rw [← h2]; congr 1; omega⟩
    · rintro ⟨j, hj, h1, h2⟩
      cases j with
      | zero => exact .inl ⟨h1, h2⟩
      | succ j =>
        refine .inr ⟨j, by omega, by rw [← h1]; congr 1; omega, ?_⟩
        rw [hc j (by omega), ← h2]; congr 1; omega

/-- Whether a sprite byte drawn with its corner at column `x0` covers column `p` with a 1: the bit of
the column at distance `p - x0`, modulo 64, if that is below 8. -/
def rowBit (cfg : Config) (b : Byte) (x0 p : Nat) : Bool :=
  let col := (p + 64 - x0 % 64) % 64
  decide (col < 8) && spriteBit cfg b col

theorem rowBit_fold (cfg : Config) (b : Byte) (x0 p : Nat) :
    ((List.range 8).map fun j =>
      decide (p % 64 = (x0 + 0 + j) % 64) && spriteBit cfg b (0 + j)).foldl xor false =
      rowBit cfg b x0 p := by
  unfold rowBit
  simp only [List.range, List.range.loop, List.map_cons, List.map_nil, List.foldl_cons,
    List.foldl_nil, Nat.add_zero, Nat.zero_add]
  by_cases hc : (p + 64 - x0 % 64) % 64 < 8
  · obtain ⟨j, hj, hj8⟩ : ∃ j, (p + 64 - x0 % 64) % 64 = j ∧ j < 8 := ⟨_, rfl, hc⟩
    have hp : ∀ k < 8, (p % 64 = (x0 + k) % 64) ↔ k = j := by intro k hk; omega
    have hp0 : (p % 64 = x0 % 64) ↔ 0 = j := by omega
    simp only [hp 1, hp 2, hp 3, hp 4, hp 5, hp 6, hp 7, hp0, hj, hj8, decide_true, Bool.true_and,
      Nat.reduceLT]
    rcases j with _ | _ | _ | _ | _ | _ | _ | _ | j
    all_goals first | omega | simp
  · have hp : ∀ k < 8, decide (p % 64 = (x0 + k) % 64) = false := by
      intro k hk; simp only [decide_eq_false_iff_not]; omega
    have hp0 : decide (p % 64 = x0 % 64) = false := by simp only [decide_eq_false_iff_not]; omega
    simp [hp, hp0, hc]

/-- One whole sprite row, cell by cell. -/
theorem drawRow_cell (cfg : Config) (b : Byte) (x0 py p q : Nat) (d : Screen × Bool) :
    (drawColumns cfg b x0 py 0 8 d).1.cell p q =
      xor (d.1.cell p q) (decide (q % 32 = py % 32) && rowBit cfg b x0 p) := by
  rw [drawColumns_cell, rowBit_fold]

/-- One whole sprite row, its collision flag. -/
theorem drawRow_hit (cfg : Config) (b : Byte) (x0 py : Nat) (d : Screen × Bool) :
    (drawColumns cfg b x0 py 0 8 d).2 = true ↔
      d.2 = true ∨ ∃ p < 64, rowBit cfg b x0 p = true ∧ d.1.cell p py = true := by
  rw [drawColumns_hit _ _ _ _ _ _ _ (by omega)]
  refine or_congr Iff.rfl ⟨?_, ?_⟩
  · rintro ⟨j, hj, h1, h2⟩
    refine ⟨(x0 + j) % 64, Nat.mod_lt _ (by omega), ?_, ?_⟩
    · have : ((x0 + j) % 64 + 64 - x0 % 64) % 64 = j := by omega
      simp only [rowBit, this]
      simpa [hj] using h1
    · rw [← cell_mod] at h2
      rw [← cell_mod]
      simpa using h2
  · rintro ⟨p, hp, h1, h2⟩
    simp only [rowBit, Bool.and_eq_true, decide_eq_true_eq] at h1
    refine ⟨(p + 64 - x0 % 64) % 64, h1.1, by simpa using h1.2, ?_⟩
    rw [← cell_mod] at h2 ⊢
    have : (x0 + 0 + (p + 64 - x0 % 64) % 64) % 64 = p % 64 := by omega
    rw [this]; exact h2

/-- Whether a sprite of rows `bs`, its corner at column `x0`, row `y0`, covers the cell at column `p`,
row `q` with a 1. -/
def spriteCovers (cfg : Config) (x0 y0 : Nat) (bs : List Byte) (p q : Nat) : Bool :=
  match bs[(q + 32 - y0 % 32) % 32]? with
  | some b => rowBit cfg b x0 p
  | none => false

theorem spriteCovers_cons (cfg : Config) (x0 y0 : Nat) (b : Byte) (bs : List Byte) (p q : Nat)
    (hl : (b :: bs).length ≤ 32) :
    spriteCovers cfg x0 y0 (b :: bs) p q =
      xor (decide (q % 32 = y0 % 32) && rowBit cfg b x0 p) (spriteCovers cfg x0 (y0 + 1) bs p q) := by
  unfold spriteCovers
  by_cases h : q % 32 = y0 % 32
  · have h0 : (q + 32 - y0 % 32) % 32 = 0 := by omega
    have h1 : (q + 32 - (y0 + 1) % 32) % 32 = 31 := by omega
    have h2 : bs[31]? = none := List.getElem?_eq_none (by simp at hl; omega)
    simp [h0, h1, h2, h]
  · have h1 : (q + 32 - y0 % 32) % 32 = (q + 32 - (y0 + 1) % 32) % 32 + 1 := by omega
    simp [h1, h]

/-- The whole sprite, cell by cell, for at most 32 rows: no cell is met twice (R161). -/
theorem drawRows_cell (cfg : Config) (x0 : Nat) (bs : List Byte) (y0 p q : Nat) (d : Screen × Bool)
    (hl : bs.length ≤ 32) :
    (drawRows cfg x0 y0 bs d).1.cell p q = xor (d.1.cell p q) (spriteCovers cfg x0 y0 bs p q) := by
  induction bs generalizing y0 d with
  | nil => simp [drawRows, spriteCovers]
  | cons b bs ih =>
    rw [drawRows, ih _ _ (by simp at hl; omega), drawRow_cell, spriteCovers_cons _ _ _ _ _ _ _ hl]
    simp

/-- The collision flag of the whole sprite. -/
theorem drawRows_hit (cfg : Config) (x0 : Nat) (bs : List Byte) (y0 : Nat) (d : Screen × Bool)
    (hl : bs.length ≤ 32) :
    (drawRows cfg x0 y0 bs d).2 = true ↔
      d.2 = true ∨ ∃ p < 64, ∃ q < 32, d.1.cell p q = true ∧
        spriteCovers cfg x0 y0 bs p q = true := by
  induction bs generalizing y0 d with
  | nil => simp [drawRows, spriteCovers]
  | cons b bs ih =>
    have hl' : bs.length ≤ 32 := by simp at hl; omega
    rw [drawRows, ih _ _ hl', drawRow_hit, or_assoc]
    refine or_congr Iff.rfl ?_
    have key : ∀ p q, spriteCovers cfg x0 (y0 + 1) bs p q = true → ¬ q % 32 = y0 % 32 := by
      intro p q h hq
      unfold spriteCovers at h
      have h1 : (q + 32 - (y0 + 1) % 32) % 32 = 31 := by omega
      have h2 : bs[31]? = none := List.getElem?_eq_none (by simp at hl; omega)
      simp [h1, h2] at h
    constructor
    · rintro (⟨p, hp, h1, h2⟩ | ⟨p, hp, q, hq, h1, h2⟩)
      · refine ⟨p, hp, y0 % 32, Nat.mod_lt _ (by omega), ?_, ?_⟩
        · rw [← cell_mod] at h2 ⊢; simpa using h2
        · rw [spriteCovers_cons _ _ _ _ _ _ _ hl]
          cases h3 : spriteCovers cfg x0 (y0 + 1) bs p (y0 % 32) with
          | true => exact absurd (by simp) (key _ _ h3)
          | false => simp [h1]
      · refine ⟨p, hp, q, hq, ?_, ?_⟩
        · rw [drawRow_cell] at h1; simpa [key _ _ h2] using h1
        · rw [spriteCovers_cons _ _ _ _ _ _ _ hl]; simp [h2, key _ _ h2]
    · rintro ⟨p, hp, q, hq, h1, h2⟩
      rw [spriteCovers_cons _ _ _ _ _ _ _ hl] at h2
      by_cases h : q % 32 = y0 % 32
      · have h3 : spriteCovers cfg x0 (y0 + 1) bs p q = false := by
          cases h3 : spriteCovers cfg x0 (y0 + 1) bs p q with
          | true => exact absurd h (key _ _ h3)
          | false => rfl
        refine .inl ⟨p, hp, by simpa [h, h3] using h2, ?_⟩
        rw [← cell_mod] at h1 ⊢; rw [← h]; exact h1
      · refine .inr ⟨p, hp, q, hq, ?_, by simpa [h] using h2⟩
        rw [drawRow_cell]; simpa [h] using h1

end Sys2Proof.Machine
end

