-- ==== Sys2Proof/Laws/Frame.lean ====
section
/-! SUPPORT. Frames element by element: which elements an update leaves in agreement, and the bytes a
block store leaves behind. -/

namespace Sys2Proof.Machine

/-- Moving pc keeps the agreement of every other element. -/
theorem agree_advance {e : Elem} {s t : State} (k : Word) (he : e ≠ .pc) (h : agree e s t) :
    agree e s (t.advance k) := by
  cases e <;> first | exact h | exact absurd rfl he

/-- Writing I keeps the agreement of every other element. -/
theorem agree_setI {e : Elem} {s t : State} (a : Word) (he : e ≠ .index) (h : agree e s t) :
    agree e s (t.setI a) := by
  cases e <;> first | exact h | exact absurd rfl he

/-- Writing V[x] keeps the agreement of every other element. -/
theorem agree_setV {e : Elem} {s t : State} (x : Reg) (b : Byte) (he : e ≠ .reg x)
    (h : agree e s t) : agree e s (t.setV x b) := by
  cases e with
  | reg r => exact (getV_setV_ne t (fun hr => he (congrArg Elem.reg hr)) b).trans h
  | _ => exact h

/-- A block store keeps the agreement of everything but the bytes stored to. -/
theorem agree_setMemBytes (s : State) (as : List Nat) (bs : List Byte)
    (hl : as.length = bs.length) {e : Elem} (he : ∀ a ∈ as, e ≠ .memByte a) :
    agree e s (s.setMemBytes (as.zip bs)) := by
  by_cases hm : ∃ a, e = .memByte a
  · obtain ⟨a, rfl⟩ := hm
    apply memByte_setMemBytes_notMem
    rw [List.map_fst_zip (by omega)]
    exact fun h => he a h rfl
  · rw [setMemBytes_eq]
    cases e <;> first | rfl | exact absurd ⟨_, rfl⟩ hm

/-- What a block store of `n` bytes from `e` on leaves at its k-th address (R53: the addresses are
distinct, so no byte overwrites another). -/
theorem memByte_blockStore (s : State) (e n : Nat) (bs : List Byte) (hn : bs.length = n)
    (hl : n ≤ 4096) (k : Nat) (hk : k < bs.length) :
    (s.setMemBytes (((List.range n).map fun k => (e + k) % 4096).zip bs)).memByte
      ((e + k) % 4096) = bs[k] := by
  subst hn
  refine memByte_setMemBytes_mem s _ ?_ (c := ((e + k) % 4096, bs[k])) ?_
  · rw [List.map_fst_zip (by simp)]; exact nodup_range_mod e hl
  · rw [List.mem_iff_getElem]; exact ⟨k, by simpa using hk, by simp⟩

@[simp] theorem setMemBytes_pc (s : State) (cs : List (Nat × Byte)) :
    (s.setMemBytes cs).pc = s.pc := by rw [setMemBytes_eq]
@[simp] theorem setMemBytes_i (s : State) (cs : List (Nat × Byte)) :
    (s.setMemBytes cs).i = s.i := by rw [setMemBytes_eq]
@[simp] theorem setMemBytes_cfg (s : State) (cs : List (Nat × Byte)) :
    (s.setMemBytes cs).cfg = s.cfg := by rw [setMemBytes_eq]
@[simp] theorem setMemBytes_getV (s : State) (cs : List (Nat × Byte)) (r : Reg) :
    (s.setMemBytes cs).getV r = s.getV r := by rw [setMemBytes_eq]; rfl

end Sys2Proof.Machine
end

