-- ==== Sys2Proof/Laws/PerInstr.lean ====
section
/-! SUPPORT. One statement for every instruction: its word carries the fixed bits of its row of
spec/opcode_table.json (R67, R72). The masks and the matched values are the table's own, row by row, so
the encoder is held against a second source. -/

namespace Sys2Proof.Laws.MatchesTable

/-- Column "mask" of the instruction's row: which bits are fixed. -/
def tableMask : Instr → Word
  | .op00E0 _ | .op00EE _ | .opEX9E _ | .opEXA1 _ | .opFX07 _ | .opFX0A _ | .opFX15 _ | .opFX18 _
  | .opFX1E _ | .opFX29 _ | .opFX33 _ | .opFX55 _ | .opFX65 _ => 0xF0FF
  | .op1NNN _ | .op2NNN _ | .op3XNN _ _ | .op4XNN _ _ | .op5XY0 _ _ _ | .op6XNN _ _ | .op7XNN _ _
  | .op9XY0 _ _ _ | .opANNN _ | .opBNNN _ | .opCXNN _ _ | .opDXYN _ _ _ => 0xF000
  | .op8XY0 _ _ | .op8XY1 _ _ | .op8XY2 _ _ | .op8XY3 _ _ | .op8XY4 _ _ | .op8XY5 _ _
  | .op8XY6 _ _ | .op8XY7 _ _ | .op8XYE _ _ => 0xF00F

/-- Column "match" of the instruction's row: the value of the fixed bits. -/
def tableMatch : Instr → Word
  | .op00E0 _ => 0x00E0
  | .op00EE _ => 0x00EE
  | .op1NNN _ => 0x1000
  | .op2NNN _ => 0x2000
  | .op3XNN _ _ => 0x3000
  | .op4XNN _ _ => 0x4000
  | .op5XY0 _ _ _ => 0x5000
  | .op6XNN _ _ => 0x6000
  | .op7XNN _ _ => 0x7000
  | .op8XY0 _ _ => 0x8000
  | .op8XY1 _ _ => 0x8001
  | .op8XY2 _ _ => 0x8002
  | .op8XY3 _ _ => 0x8003
  | .op8XY4 _ _ => 0x8004
  | .op8XY5 _ _ => 0x8005
  | .op8XY6 _ _ => 0x8006
  | .op8XY7 _ _ => 0x8007
  | .op8XYE _ _ => 0x800E
  | .op9XY0 _ _ _ => 0x9000
  | .opANNN _ => 0xA000
  | .opBNNN _ => 0xB000
  | .opCXNN _ _ => 0xC000
  | .opDXYN _ _ _ => 0xD000
  | .opEX9E _ => 0xE09E
  | .opEXA1 _ => 0xE0A1
  | .opFX07 _ => 0xF007
  | .opFX0A _ => 0xF00A
  | .opFX15 _ => 0xF015
  | .opFX18 _ => 0xF018
  | .opFX1E _ => 0xF01E
  | .opFX29 _ => 0xF029
  | .opFX33 _ => 0xF033
  | .opFX55 _ => 0xF055
  | .opFX65 _ => 0xF065

/-- The instruction's word has the fixed bits of its row. -/
def Statement (i : Instr) : Prop := encode i &&& tableMask i = tableMatch i

/-! ### What the three masks keep of a word -/

theorem and_opMask (w : Word) : w &&& 0xF000 = fieldOp w ++ (0 : BitVec 12) := by
  ext k hk
  rw [BitVec.getElem_append]
  interval_cases k <;> simp [fieldOp]

theorem and_opNnMask (w : Word) : w &&& 0xF0FF = fieldOp w ++ (0 : BitVec 4) ++ fieldNn w := by
  ext k hk
  simp only [BitVec.getElem_append]
  interval_cases k <;> simp [fieldOp, fieldNn]

theorem and_opNMask (w : Word) : w &&& 0xF00F = fieldOp w ++ (0 : BitVec 8) ++ fieldN w := by
  ext k hk
  simp only [BitVec.getElem_append]
  interval_cases k <;> simp [fieldOp, fieldN]

/-! ### One lemma per constructor -/

theorem op00E0 (x : Nibble) : Statement (.op00E0 x) :=
  (and_opNnMask _).trans (by simp [encode, tableMatch])
theorem op00EE (x : Nibble) : Statement (.op00EE x) :=
  (and_opNnMask _).trans (by simp [encode, tableMatch])
theorem op1NNN (nnn : Addr12) : Statement (.op1NNN nnn) :=
  (and_opMask _).trans (by simp [encode, tableMatch])
theorem op2NNN (nnn : Addr12) : Statement (.op2NNN nnn) :=
  (and_opMask _).trans (by simp [encode, tableMatch])
theorem op3XNN (x : Reg) (nn : Byte) : Statement (.op3XNN x nn) :=
  (and_opMask _).trans (by simp [encode, tableMatch])
theorem op4XNN (x : Reg) (nn : Byte) : Statement (.op4XNN x nn) :=
  (and_opMask _).trans (by simp [encode, tableMatch])
theorem op5XY0 (x : Reg) (y : Reg) (n : Nibble) : Statement (.op5XY0 x y n) :=
  (and_opMask _).trans (by simp [encode, tableMatch])
theorem op6XNN (x : Reg) (nn : Byte) : Statement (.op6XNN x nn) :=
  (and_opMask _).trans (by simp [encode, tableMatch])
theorem op7XNN (x : Reg) (nn : Byte) : Statement (.op7XNN x nn) :=
  (and_opMask _).trans (by simp [encode, tableMatch])
theorem op8XY0 (x : Reg) (y : Reg) : Statement (.op8XY0 x y) :=
  (and_opNMask _).trans (by simp [encode, tableMatch])
theorem op8XY1 (x : Reg) (y : Reg) : Statement (.op8XY1 x y) :=
  (and_opNMask _).trans (by simp [encode, tableMatch])
theorem op8XY2 (x : Reg) (y : Reg) : Statement (.op8XY2 x y) :=
  (and_opNMask _).trans (by simp [encode, tableMatch])
theorem op8XY3 (x : Reg) (y : Reg) : Statement (.op8XY3 x y) :=
  (and_opNMask _).trans (by simp [encode, tableMatch])
theorem op8XY4 (x : Reg) (y : Reg) : Statement (.op8XY4 x y) :=
  (and_opNMask _).trans (by simp [encode, tableMatch])
theorem op8XY5 (x : Reg) (y : Reg) : Statement (.op8XY5 x y) :=
  (and_opNMask _).trans (by simp [encode, tableMatch])
theorem op8XY6 (x : Reg) (y : Reg) : Statement (.op8XY6 x y) :=
  (and_opNMask _).trans (by simp [encode, tableMatch])
theorem op8XY7 (x : Reg) (y : Reg) : Statement (.op8XY7 x y) :=
  (and_opNMask _).trans (by simp [encode, tableMatch])
theorem op8XYE (x : Reg) (y : Reg) : Statement (.op8XYE x y) :=
  (and_opNMask _).trans (by simp [encode, tableMatch])
theorem op9XY0 (x : Reg) (y : Reg) (n : Nibble) : Statement (.op9XY0 x y n) :=
  (and_opMask _).trans (by simp [encode, tableMatch])
theorem opANNN (nnn : Addr12) : Statement (.opANNN nnn) :=
  (and_opMask _).trans (by simp [encode, tableMatch])
theorem opBNNN (nnn : Addr12) : Statement (.opBNNN nnn) :=
  (and_opMask _).trans (by simp [encode, tableMatch])
theorem opCXNN (x : Reg) (nn : Byte) : Statement (.opCXNN x nn) :=
  (and_opMask _).trans (by simp [encode, tableMatch])
theorem opDXYN (x : Reg) (y : Reg) (n : Nat) : Statement (.opDXYN x y n) :=
  (and_opMask _).trans (by simp [encode, tableMatch])
theorem opEX9E (x : Reg) : Statement (.opEX9E x) :=
  (and_opNnMask _).trans (by simp [encode, tableMatch])
theorem opEXA1 (x : Reg) : Statement (.opEXA1 x) :=
  (and_opNnMask _).trans (by simp [encode, tableMatch])
theorem opFX07 (x : Reg) : Statement (.opFX07 x) :=
  (and_opNnMask _).trans (by simp [encode, tableMatch])
theorem opFX0A (x : Reg) : Statement (.opFX0A x) :=
  (and_opNnMask _).trans (by simp [encode, tableMatch])
theorem opFX15 (x : Reg) : Statement (.opFX15 x) :=
  (and_opNnMask _).trans (by simp [encode, tableMatch])
theorem opFX18 (x : Reg) : Statement (.opFX18 x) :=
  (and_opNnMask _).trans (by simp [encode, tableMatch])
theorem opFX1E (x : Reg) : Statement (.opFX1E x) :=
  (and_opNnMask _).trans (by simp [encode, tableMatch])
theorem opFX29 (x : Reg) : Statement (.opFX29 x) :=
  (and_opNnMask _).trans (by simp [encode, tableMatch])
theorem opFX33 (x : Reg) : Statement (.opFX33 x) :=
  (and_opNnMask _).trans (by simp [encode, tableMatch])
theorem opFX55 (x : Reg) : Statement (.opFX55 x) :=
  (and_opNnMask _).trans (by simp [encode, tableMatch])
theorem opFX65 (x : Reg) : Statement (.opFX65 x) :=
  (and_opNnMask _).trans (by simp [encode, tableMatch])

end Sys2Proof.Laws.MatchesTable
end

