-- ==== Sys2Proof/Laws/Step.lean ====
section
/-! SUPPORT. What an instruction, a Step and an event can do, said once: the inversion lemmas from which
invariants follow. -/

namespace Sys2Proof.Machine

/-! ### An instruction -/

/-- The elements no instruction writes unless it raises a fault, and the form of memory. -/
structure Quiet (s t : State) : Prop where
  errOut : t.errOut = s.errOut
  halted : t.halted = s.halted
  faultCause : t.faultCause = s.faultCause
  cfg : t.cfg = s.cfg
  key : t.key = s.key
  schedule : t.schedule = s.schedule
  wf : Memory.wf s.cfg.font s.mem = true → Memory.wf t.cfg.font t.mem = true

/-- An instruction raises one fatal fault, or is quiet. -/
theorem exec_cases {i : Instr} {s t : State} (h : exec i s = .next t) :
    (∃ c w info, c.fatal = true ∧ t = s.raiseFault c w info) ∨ Quiet s t := by
  have block : ∀ (as : List Nat) (bs : List Byte) (n : Nat),
      addrRange s.cfg s.indexAddr n = .ok as → Quiet s (s.setMemBytes (as.zip bs)) := by
    intro as bs n ha
    have hw := fun hs => wf_setMemBytes s (as.zip bs) hs
      fun c hc => addrRange_lt ha _ (List.of_mem_zip hc).1
    rw [setMemBytes_eq]
    exact ⟨rfl, rfl, rfl, rfl, rfl, rfl, hw⟩
  cases i with
  | op00EE m =>
    by_cases hs : s.sp.val = 0
    · rw [exec_op00EE_underflow _ _ hs] at h; cases h; exact .inl ⟨_, _, _, rfl, rfl⟩
    · rw [exec_op00EE_ok _ _ (by omega)] at h; cases h
      exact .inr ⟨rfl, rfl, rfl, rfl, rfl, rfl, id⟩
  | op2NNN nnn =>
    by_cases hs : s.sp.val = 16
    · rw [exec_op2NNN_overflow _ _ hs] at h; cases h; exact .inl ⟨_, _, _, rfl, rfl⟩
    · rw [exec_op2NNN_ok _ _ (by have := s.sp.isLt; omega)] at h; cases h
      exact .inr ⟨rfl, rfl, rfl, rfl, rfl, rfl, id⟩
  | opDXYN x y n =>
    cases ha : addrRange s.cfg s.indexAddr n with
    | error bad => rw [exec_opDXYN_fault _ _ _ ha] at h; cases h; exact .inl ⟨_, _, _, rfl, rfl⟩
    | ok as =>
      rw [exec_opDXYN_ok _ _ _ ha] at h; cases h
      exact .inr ⟨rfl, rfl, rfl, rfl, rfl, rfl, id⟩
  | opEX9E x =>
    cases hk : keyIndex s.cfg (s.getV x) with
    | none => rw [exec_opEX9E_fault _ _ hk] at h; cases h; exact .inl ⟨_, _, _, rfl, rfl⟩
    | some k =>
      rw [exec_opEX9E_ok _ _ hk] at h; cases h; exact .inr ⟨rfl, rfl, rfl, rfl, rfl, rfl, id⟩
  | opEXA1 x =>
    cases hk : keyIndex s.cfg (s.getV x) with
    | none => rw [exec_opEXA1_fault _ _ hk] at h; cases h; exact .inl ⟨_, _, _, rfl, rfl⟩
    | some k =>
      rw [exec_opEXA1_ok _ _ hk] at h; cases h; exact .inr ⟨rfl, rfl, rfl, rfl, rfl, rfl, id⟩
  | opFX0A x =>
    cases hk : s.firstPressed with
    | none => rw [exec_opFX0A_waiting _ _ hk] at h; cases h; exact .inr ⟨rfl, rfl, rfl, rfl, rfl, rfl, id⟩
    | some k =>
      rw [exec_opFX0A_pressed _ _ hk] at h; cases h; exact .inr ⟨rfl, rfl, rfl, rfl, rfl, rfl, id⟩
  | opCXNN x nn =>
    rw [exec_opCXNN] at h; cases h
    exact .inr ⟨by simp, by simp, by simp, by simp, by simp, by simp, by simp⟩
  | opFX33 x =>
    cases ha : addrRange s.cfg s.indexAddr 3 with
    | error bad => rw [exec_opFX33_fault _ _ ha] at h; cases h; exact .inl ⟨_, _, _, rfl, rfl⟩
    | ok as =>
      rw [exec_opFX33_ok _ _ ha] at h; cases h
      obtain ⟨h1, h2, h3, h4, h5, h6, h7⟩ := block as (decimalDigits (s.getV x)) 3 ha
      exact .inr ⟨h1, h2, h3, h4, h5, h6, h7⟩
  | opFX55 x =>
    cases ha : addrRange s.cfg s.indexAddr (x.val + 1) with
    | error bad => rw [exec_opFX55_fault _ _ ha] at h; cases h; exact .inl ⟨_, _, _, rfl, rfl⟩
    | ok as =>
      rw [exec_opFX55_ok _ _ ha] at h; cases h
      obtain ⟨h1, h2, h3, h4, h5, h6, h7⟩ := block as (s.regBlock x) _ ha
      exact .inr ⟨h1, h2, h3, h4, h5, h6, h7⟩
  | opFX65 x =>
    cases ha : addrRange s.cfg s.indexAddr (x.val + 1) with
    | error bad => rw [exec_opFX65_fault _ _ ha] at h; cases h; exact .inl ⟨_, _, _, rfl, rfl⟩
    | ok as =>
      rw [exec_opFX65_ok _ _ ha] at h; cases h
      exact .inr ⟨rfl, rfl, rfl, rfl, rfl, rfl, id⟩
  | op3XNN x nn => rw [exec_op3XNN] at h; cases h; exact .inr ⟨rfl, rfl, rfl, rfl, rfl, rfl, id⟩
  | op4XNN x nn => rw [exec_op4XNN] at h; cases h; exact .inr ⟨rfl, rfl, rfl, rfl, rfl, rfl, id⟩
  | op5XY0 x y n => rw [exec_op5XY0] at h; cases h; exact .inr ⟨rfl, rfl, rfl, rfl, rfl, rfl, id⟩
  | op9XY0 x y n => rw [exec_op9XY0] at h; cases h; exact .inr ⟨rfl, rfl, rfl, rfl, rfl, rfl, id⟩
  | _ => cases h; exact .inr ⟨rfl, rfl, rfl, rfl, rfl, rfl, id⟩

/-! ### A Step -/

theorem stepCore_halted {s : State} (h : s.halted = true) : stepCore s = .fault .stepWhileHalted := by
  simp [stepCore, h]

theorem stepCore_fetchFault {s : State} {bad : Nat} (h : s.halted = false)
    (hf : s.fetchWord = .error bad) : stepCore s = .next (s.fetchFault bad) := by
  simp [stepCore, h, hf]

theorem stepCore_unknown {s : State} {w : Word} {e : DecodeError} (h : s.halted = false)
    (hf : s.fetchWord = .ok w) (hd : decodeWord w = .error e) :
    stepCore s = .next (s.skipUnknown w) := by
  simp [stepCore, h, hf, hd]

theorem stepCore_exec {s : State} {w : Word} {i : Instr} (h : s.halted = false)
    (hf : s.fetchWord = .ok w) (hd : decodeWord w = .ok i) : stepCore s = exec i s := by
  simp [stepCore, h, hf, hd]

/-- The four ways of a Step (R190). -/
theorem stepCore_cases {s t : State} (h : stepCore s = .next t) :
    s.halted = false ∧
      ((∃ bad, s.fetchWord = .error bad ∧ t = s.fetchFault bad) ∨
       (∃ w e, s.fetchWord = .ok w ∧ decodeWord w = .error e ∧ t = s.skipUnknown w) ∨
       (∃ w i, s.fetchWord = .ok w ∧ decodeWord w = .ok i ∧ exec i s = .next t)) := by
  unfold stepCore at h
  split at h
  · cases h
  · rename_i hh
    refine ⟨by simpa using hh, ?_⟩
    split at h
    · rename_i hf; cases h; exact .inl ⟨_, hf, rfl⟩
    · rename_i hf
      split at h
      · rename_i hd; cases h; exact .inr (.inl ⟨_, _, hf, hd, rfl⟩)
      · rename_i hd; exact .inr (.inr ⟨_, _, hf, hd, h⟩)

theorem stepWith_cases {r : Byte} {s t : State} (h : stepWith r s = .next t) :
    ∃ u, stepCore (s.giveDraw r) = .next u ∧ t = u.endDraw := by
  unfold stepWith at h
  split at h
  · rename_i u hu; cases h; exact ⟨u, hu, rfl⟩
  · cases h
  · cases h

/-- A Step event is the Step at the state that holds the draw, which it drops after it (R39, R151). -/
theorem applyEvent_step {r : Byte} {s u : State} (h : stepCore (s.giveDraw r) = .next u) :
    applyEvent (.step r) s = .next u.endDraw := by
  simp [applyEvent, stepWith, h]

/-! ### The fetch (R50, R82) -/

/-- The fetch does not look at the draw. -/
@[simp] theorem fetchWord_giveDraw (s : State) (r : Byte) :
    (s.giveDraw r).fetchWord = s.fetchWord := rfl

theorem fetchWord_eq {s : State} {a b : Nat} (ha : addr s.cfg s.pc.toNat = .ok a)
    (hb : addr s.cfg (s.pc.toNat + 1) = .ok b) :
    s.fetchWord = .ok (wordOfBytes (s.memByte a) (s.memByte b)) := by
  simp [State.fetchWord, ha, hb]

/-! ### The machine's step -/

theorem step_core {s : State} (h : s.schedule = []) : step s = stepCore s := by
  simp [step, h]

theorem step_event {s : State} {e : Event} {es : List Event} (h : s.schedule = e :: es) :
    step s = applyEvent e (s.withSchedule es) := by
  simp [step, h]

/-! ### Load -/

theorem placeBytes_eq (s : State) (a : Nat) (bs : List Byte) :
    s.placeBytes a bs = { s with mem := (s.placeBytes a bs).mem } := by
  induction bs generalizing s a with
  | nil => rfl
  | cons b bs ih => rw [State.placeBytes, ih]; rfl

theorem wf_placeBytes (s : State) (a : Nat) (bs : List Byte)
    (hs : Memory.wf s.cfg.font s.mem = true) (hl : a + bs.length ≤ memSize) :
    Memory.wf s.cfg.font (s.placeBytes a bs).mem = true := by
  induction bs generalizing s a with
  | nil => exact hs
  | cons b bs ih =>
    simp only [List.length_cons] at hl
    exact ih (s.setMemByte a b) (a + 1) (wf_write b hs (by omega)) (by omega)

theorem memByte_placeBytes (s : State) (a : Nat) (bs : List Byte) (p : Nat) :
    (s.placeBytes a bs).memByte p =
      if h : a ≤ p ∧ p - a < bs.length then bs[p - a]'h.2 else s.memByte p := by
  induction bs generalizing s a with
  | nil => simp [State.placeBytes]
  | cons b bs ih =>
    rw [State.placeBytes, ih]
    rcases lt_trichotomy p a with h | rfl | h
    · rw [dif_neg (by omega), dif_neg (by omega), memByte_setMemByte_ne _ (by omega)]
    · rw [dif_neg (by omega), dif_pos (by simp), memByte_setMemByte_same]; simp
    · by_cases hl : p - a < (b :: bs).length
      · have hl' : p - (a + 1) < bs.length := by simp at hl; omega
        rw [dif_pos ⟨by omega, hl'⟩, dif_pos ⟨by omega, hl⟩]
        have : p - a = (p - (a + 1)) + 1 := by omega
        simp [this]
      · rw [dif_neg (by simp at hl ⊢; omega), dif_neg (by omega), memByte_setMemByte_ne _ (by omega)]

/-- Elsewhere than directly after Reset the Load event is refused (93 I24; log 9). -/
theorem loadEvent_notAfterReset {s : State} {rom : List Byte} (h : s.resetEvent ≠ s) :
    s.loadEvent rom = .refused .loadNotAfterReset := by
  simp [State.loadEvent, State.isPostReset, h.symm]

/-- A Load event that answers wrote at most 3584 bytes from 0x200 on, in a state as Reset leaves it. -/
theorem loadEvent_cases {s t : State} {rom : List Byte} (h : s.loadEvent rom = .next t) :
    s = s.resetEvent ∧ rom.length ≤ maxRom ∧ t = s.placeBytes programBase rom := by
  unfold State.loadEvent State.isPostReset State.load at h
  split at h
  · rename_i hp
    split at h
    · rename_i hl
      split at hl
      · cases hl
      · rename_i hle; cases hl; cases h
        exact ⟨of_decide_eq_true hp, by omega, rfl⟩
    · cases h
  · cases h

end Sys2Proof.Machine
end

