-- ==== Sys2Proof/Tests/Slice0.lean ====
section
/-! SUPPORT. Tests: words written out from the opcode map, ill-formed terms, the worked vectors of
spec/95_test_vectors.md (named in each test), and a witness for every statement that has hypotheses. -/

namespace Sys2Proof.Tests

open Sys2Proof.Machine

set_option maxRecDepth 8000

/-! ### Helpers -/

/-- The start state of a vector: Reset, with the word under test at 0x200 (95_test_vectors section 0). -/
def start (w : Nat) : State := State.reset.withFetchWord 16 w

/-- The same under ADDR_POLICY = fault. -/
def strict (s : State) : State := { s with cfg := { s.cfg with addrPolicy := .fault } }

/-- The same under KEY_INDEX_POLICY = mask4. -/
def masked (s : State) : State := { s with cfg := { s.cfg with keyIndexPolicy := .mask4 } }

/-- The same with `k` stack entries active. -/
def deep (s : State) (k : Fin 17) : State := { s with sp := k }

/-- The outcome is a next state of which `p` holds. -/
def gives (o : Host.Outcome State Fault Refusal) (p : State → Bool) : Bool :=
  match o with
  | .next t => p t
  | .fault _ => false
  | .refused _ => false

/-- The next state of an outcome, or a given one. -/
def nextOr (s : State) (o : Host.Outcome State Fault Refusal) : State :=
  match o with
  | .next t => t
  | .fault _ => s
  | .refused _ => s

/-- The last record, the fault status and pc, as a vector lists them. -/
def stopsWith (c : Cause) (pc : Word) (w : Option Word) (info : Option Nat) (t : State) : Bool :=
  decide (t.errOut = [⟨c, pc, w, info⟩]) && t.halted && decide (t.faultCause = some c) &&
    decide (t.pc = pc)

/-! ### WellFormed: the one check, and the ill-formed term it refuses -/

theorem test_wellFormed_refuses_sixteen_rows : (Instr.opDXYN 1 2 16).wellFormed = false := by decide

theorem test_wellFormed_takes_fifteen_rows : (Instr.opDXYN 1 2 15).wellFormed = true := by decide

/-! ### Decoding: every constructor, by a word written out from its row (R72) -/

theorem test_decode_control_flow :
    decodeWord 0b0000_0011_1110_1110 = .ok (.op00EE 3) ∧
    decodeWord 0b0001_1010_1011_1100 = .ok (.op1NNN 0xABC) ∧
    decodeWord 0b0010_0011_0000_0001 = .ok (.op2NNN 0x301) ∧
    decodeWord 0b1011_0011_0000_0010 = .ok (.opBNNN 0x302) := by decide

theorem test_decode_skips :
    decodeWord 0b0011_1010_0001_0010 = .ok (.op3XNN 10 0x12) ∧
    decodeWord 0b0100_1010_0001_0011 = .ok (.op4XNN 10 0x13) ∧
    decodeWord 0b0101_0001_0010_0000 = .ok (.op5XY0 1 2 0) ∧
    decodeWord 0b1001_0001_0010_1111 = .ok (.op9XY0 1 2 15) ∧
    decodeWord 0b1110_0101_1001_1110 = .ok (.opEX9E 5) ∧
    decodeWord 0b1110_0110_1010_0001 = .ok (.opEXA1 6) := by decide

theorem test_decode_immediates :
    decodeWord 0b0110_1010_0100_0010 = .ok (.op6XNN 10 0x42) ∧
    decodeWord 0b0111_1011_1111_1110 = .ok (.op7XNN 11 0xFE) ∧
    decodeWord 0b1100_0011_0000_1111 = .ok (.opCXNN 3 0x0F) ∧
    decodeWord 0b1010_0001_0010_0011 = .ok (.opANNN 0x123) := by decide

theorem test_decode_alu :
    decodeWord 0b1000_0001_0010_0000 = .ok (.op8XY0 1 2) ∧
    decodeWord 0b1000_0001_0010_0001 = .ok (.op8XY1 1 2) ∧
    decodeWord 0b1000_0001_0010_0010 = .ok (.op8XY2 1 2) ∧
    decodeWord 0b1000_0001_0010_0011 = .ok (.op8XY3 1 2) ∧
    decodeWord 0b1000_0001_0010_0100 = .ok (.op8XY4 1 2) ∧
    decodeWord 0b1000_0001_0010_0101 = .ok (.op8XY5 1 2) ∧
    decodeWord 0b1000_0001_0010_0110 = .ok (.op8XY6 1 2) ∧
    decodeWord 0b1000_0001_0010_0111 = .ok (.op8XY7 1 2) ∧
    decodeWord 0b1000_0001_0010_1110 = .ok (.op8XYE 1 2) := by decide

theorem test_decode_drawing :
    decodeWord 0b0000_1111_1110_0000 = .ok (.op00E0 15) ∧
    decodeWord 0b1101_1111_0001_0101 = .ok (.opDXYN 15 1 5) := by decide

theorem test_decode_category_F :
    decodeWord 0b1111_0011_0000_0111 = .ok (.opFX07 3) ∧
    decodeWord 0b1111_0011_0000_1010 = .ok (.opFX0A 3) ∧
    decodeWord 0b1111_0011_0001_0101 = .ok (.opFX15 3) ∧
    decodeWord 0b1111_0011_0001_1000 = .ok (.opFX18 3) ∧
    decodeWord 0b1111_0011_0001_1110 = .ok (.opFX1E 3) ∧
    decodeWord 0b1111_0011_0010_1001 = .ok (.opFX29 3) ∧
    decodeWord 0b1111_0011_0011_0011 = .ok (.opFX33 3) ∧
    decodeWord 0b1111_0011_0101_0101 = .ok (.opFX55 3) ∧
    decodeWord 0b1111_0011_0110_0101 = .ok (.opFX65 3) := by decide

/-- R78: words with no handler. -/
theorem test_decode_unknown :
    decodeWord 0x0000 = .error .unknownCategory0 ∧ decodeWord 0x0123 = .error .unknownCategory0 ∧
    decodeWord 0x8128 = .error .unknownCategory8 ∧ decodeWord 0x800F = .error .unknownCategory8 ∧
    decodeWord 0xE09F = .error .unknownCategoryE ∧ decodeWord 0xF000 = .error .unknownCategoryF := by
  decide

/-- R50, R65: bytes are taken two by two, the high byte first. -/
theorem test_decode_bytes :
    decode [0x12, 0x34, 0x56] = .ok (.op1NNN 0x234, [0x56]) ∧ decode [0x12] = .error .truncated ∧
    decodeTableWord 16 0x1234 = some (.op1NNN 0x234) := by decide

theorem test_encode :
    encode (.opDXYN 15 1 5) = 0xDF15 ∧ encode (.op5XY0 1 2 3) = 0x5123 ∧
    encode (.op00EE 3) = 0x03EE ∧ encodeBytes (.op1NNN 0xABC) = [0x1A, 0xBC] := by decide

/-! ### The vectors of spec/95_test_vectors.md -/

/-- V-C3. -/
theorem test_return :
    gives (step (deep ({ start 0x03EE with stack := State.reset.stack.set 0 0x204 }) 1))
      (fun t => decide (t.pc = 0x206) && decide (t.sp = 0) &&
        decide (t.stack[0] = 0x204)) := by decide

/-- V-C2. -/
theorem test_return_underflow :
    gives (step (start 0x00EE))
      (fun t => stopsWith .stackUnderflow 0x200 (some 0x00EE) none t) := by decide

/-- V-C5. -/
theorem test_jump :
    gives (step (start 0x1ABC)) (fun t => decide (t.pc = 0xABC)) := by decide

/-- V-C8. -/
theorem test_call_sixteenth :
    gives (step (deep (start 0x2300) 15))
      (fun t => decide (t.pc = 0x300) && decide (t.sp = 16) &&
        decide (t.stack[15] = 0x200)) := by decide

/-- V-C9. -/
theorem test_call_overflow :
    gives (step (deep (start 0x2300) 16))
      (fun t => stopsWith .stackOverflow 0x200 (some 0x2300) none t &&
        decide (t.sp = 16)) := by decide

/-- V-C11. -/
theorem test_jump_offset :
    gives (step ((start 0xBFFF).setV 0 0xFF)) (fun t => decide (t.pc = 0x10FE)) := by decide

/-- V-S1. -/
theorem test_skip_equal_immediate :
    gives (step ((start 0x3A12).setV 10 0x12)) (fun t => decide (t.pc = 0x204)) := by decide

/-- V-S2. -/
theorem test_no_skip_equal_immediate :
    gives (step ((start 0x3A12).setV 10 0x13)) (fun t => decide (t.pc = 0x202)) := by decide

/-- V-S3. -/
theorem test_skip_unequal_immediate :
    gives (step ((start 0x4A12).setV 10 0x13)) (fun t => decide (t.pc = 0x204)) := by decide

/-- V-S4. -/
theorem test_no_skip_unequal_immediate :
    gives (step ((start 0x4A12).setV 10 0x12)) (fun t => decide (t.pc = 0x202)) := by decide

/-- V-S8. -/
theorem test_skip_equal :
    gives (step (((start 0x5121).setV 1 7).setV 2 7))
      (fun t => decide (t.pc = 0x204) && decide (t.errOut = [])) := by decide

/-- V-S6. -/
theorem test_no_skip_equal :
    gives (step (((start 0x5120).setV 1 7).setV 2 8))
      (fun t => decide (t.pc = 0x202)) := by decide

/-- V-S11. -/
theorem test_skip_unequal :
    gives (step (((start 0x912F).setV 1 1).setV 2 2))
      (fun t => decide (t.pc = 0x204) && decide (t.errOut = [])) := by decide

/-- V-S10. -/
theorem test_no_skip_unequal :
    gives (step (((start 0x9120).setV 1 7).setV 2 7))
      (fun t => decide (t.pc = 0x202)) := by decide

/-- V-S12. -/
theorem test_skip_key :
    gives (step (((start 0xE39E).setV 3 5).keySet 5 true))
      (fun t => decide (t.pc = 0x204)) := by decide

/-- V-S17. -/
theorem test_skip_key_masked :
    gives (step (masked (((start 0xE39E).setV 3 0x15).keySet 5 true)))
      (fun t => decide (t.pc = 0x204)) := by decide

/-- V-S14. -/
theorem test_skip_no_key :
    gives (step ((start 0xE3A1).setV 3 5)) (fun t => decide (t.pc = 0x204)) := by decide

/-- V-S16, with EXA1. -/
theorem test_key_index_range :
    gives (step (((start 0xE3A1).setV 3 0x15).keySet 5 true))
      (fun t => stopsWith .keyIndexRange 0x200 (some 0xE3A1) (some 0x15) t) := by decide

/-- V-A2. -/
theorem test_load_immediate :
    gives (step ((start 0x6F42).setV 15 1))
      (fun t => decide (t.getV 15 = 0x42) && decide (t.pc = 0x202)) := by decide

/-- V-A3. -/
theorem test_add_immediate_wraps :
    gives (step (((start 0x7AFF).setV 10 2).setV 15 5))
      (fun t => decide (t.getV 10 = 1) && decide (t.getV 15 = 5)) := by decide

/-- V-A4. -/
theorem test_copy :
    gives (step ((start 0x8120).setV 2 0x55))
      (fun t => decide (t.getV 1 = 0x55) && decide (t.getV 2 = 0x55)) := by decide

/-- V-A5. -/
theorem test_or :
    gives (step ((((start 0x8121).setV 1 0xF0).setV 2 0x0F).setV 15 1))
      (fun t => decide (t.getV 1 = 0xFF) && decide (t.getV 15 = 1)) := by decide

/-- V-A6. -/
theorem test_and :
    gives (step (((start 0x8122).setV 1 0xF0).setV 2 0x3C))
      (fun t => decide (t.getV 1 = 0x30)) := by decide

/-- V-A7. -/
theorem test_xor :
    gives (step (((start 0x8123).setV 1 0xFF).setV 2 0x0F))
      (fun t => decide (t.getV 1 = 0xF0)) := by decide

/-- V-A9. -/
theorem test_add_carries :
    gives (step (((start 0x8124).setV 1 0xFF).setV 2 0xFF))
      (fun t => decide (t.getV 1 = 0xFE) && decide (t.getV 15 = 1)) := by decide

/-- V-A10. -/
theorem test_add_flag_wins :
    gives (step (((start 0x8F14).setV 15 0x10).setV 1 0x20))
      (fun t => decide (t.getV 15 = 0) && decide (t.getV 1 = 0x20)) := by decide

/-- S4. -/
theorem test_sub_borrows :
    gives (step (((start 0x8125).setV 1 1).setV 2 2))
      (fun t => decide (t.getV 1 = 0xFF) && decide (t.getV 15 = 0)) := by decide

/-- V-A13. -/
theorem test_sub_equal :
    gives (step (((start 0x8125).setV 1 5).setV 2 5))
      (fun t => decide (t.getV 1 = 0) && decide (t.getV 15 = 1)) := by decide

/-- V-A15. -/
theorem test_shift_right :
    gives (step (((start 0x8126).setV 1 5).setV 2 0xFF))
      (fun t => decide (t.getV 1 = 2) && decide (t.getV 15 = 1) &&
        decide (t.getV 2 = 0xFF)) := by decide

/-- V-A17. -/
theorem test_shift_right_flag_wins :
    gives (step ((start 0x8F06).setV 15 3)) (fun t => decide (t.getV 15 = 1)) := by decide

/-- V-A18. -/
theorem test_reverse_sub_borrows :
    gives (step (((start 0x8127).setV 1 2).setV 2 1))
      (fun t => decide (t.getV 1 = 0xFF) && decide (t.getV 15 = 0)) := by decide

/-- V-A19. -/
theorem test_reverse_sub :
    gives (step (((start 0x8127).setV 1 1).setV 2 3))
      (fun t => decide (t.getV 1 = 2) && decide (t.getV 15 = 1)) := by decide

/-- V-A21. -/
theorem test_shift_left :
    gives (step ((start 0x812E).setV 1 0x81))
      (fun t => decide (t.getV 1 = 2) && decide (t.getV 15 = 1)) := by decide

/-- V-A22. -/
theorem test_shift_left_flag_wins :
    gives (step ((start 0x8F0E).setV 15 0x40)) (fun t => decide (t.getV 15 = 0)) := by decide

/-- V-M1. -/
theorem test_load_index :
    gives (step (start 0xA123))
      (fun t => decide (t.i = 0x123) && decide (t.pc = 0x202)) := by decide

/-- V-M4. -/
theorem test_index_add_flag_register :
    gives (step (((start 0xFF1E).setI 0xFF0).setV 15 0x20))
      (fun t => decide (t.i = 0x1010) && decide (t.getV 15 = 1)) := by decide

/-- V-M4b. -/
theorem test_index_add_wraps :
    gives (step (((start 0xF31E).setI 0xFFFF).setV 3 2))
      (fun t => decide (t.i = 1) && decide (t.getV 15 = 1)) := by decide

/-- V-M11. -/
theorem test_glyph :
    gives (step ((start 0xF329).setV 3 0x0A)) (fun t => decide (t.i = 0x32)) := by decide

/-- V-M12. -/
theorem test_glyph_unmasked :
    gives (step ((start 0xF329).setV 3 0x20)) (fun t => decide (t.i = 0xA0)) := by decide

/-- V-M6c. -/
theorem test_decimal_wraps :
    gives (step (((start 0xF333).setV 3 123).setI 0xFFE))
      (fun t => decide (t.memByte 0xFFE = 1) && decide (t.memByte 0xFFF = 2) &&
        decide (t.memByte 0 = 3) && decide (t.i = 0xFFE)) := by decide

/-- V-M6d. -/
theorem test_decimal_range :
    gives (step (strict (((start 0xF333).setV 3 123).setI 0xFFE)))
      (fun t => stopsWith .addressRange 0x200 (some 0xF333) (some 0x1000) t &&
        decide (t.memByte 0xFFE = 0)) := by decide

/-- V-M7. -/
theorem test_store_registers :
    gives (step (((((start 0xF255).setV 0 1).setV 1 2).setV 2 3).setI 0x300))
      (fun t => decide (t.memByte 0x300 = 1) && decide (t.memByte 0x302 = 3) &&
        decide (t.memByte 0x303 = 0) && decide (t.i = 0x303)) := by decide

/-- V-M8b. -/
theorem test_store_registers_range :
    gives (step (strict ((((start 0xF155).setV 0 1).setV 1 2).setI 0xFFF)))
      (fun t => stopsWith .addressRange 0x200 (some 0xF155) (some 0x1000) t &&
        decide (t.memByte 0xFFF = 0)) := by decide

/-- V-M9. -/
theorem test_load_registers :
    gives (step ((((((start 0xF265).setV 3 4).setI 0x300).setMemByte 0x300 7).setMemByte 0x301 8).setMemByte 0x302 9))
      (fun t => decide (t.getV 0 = 7) && decide (t.getV 2 = 9) &&
        decide (t.getV 3 = 4) && decide (t.i = 0x303)) := by decide

/-- V-M10. -/
theorem test_load_all_registers :
    gives (step ((((start 0xFF65).setV 14 1).setI 0x300).setMemByte 0x30F 0xEE))
      (fun t => decide (t.getV 14 = 0) && decide (t.getV 15 = 0xEE) &&
        decide (t.i = 0x310)) := by decide

/-- V-R1. -/
theorem test_random_masked :
    gives (step (((start 0xC30F).setV 3 0x77).giveDraw 0xAB))
      (fun t => decide (t.getV 3 = 0x0B) && decide (t.pc = 0x202)) := by decide

/-- V-R3. -/
theorem test_random_into_flag_register :
    gives (step ((start 0xCFFF).giveDraw 0xA5)) (fun t => decide (t.getV 15 = 0xA5)) := by decide

/-- V-D3. -/
theorem test_draw_wraps :
    gives (step ((((start 0xD011).setV 0 63).setI 0x300).setMemByte 0x300 0xFF))
      (fun t => t.gfx.cell 63 0 && t.gfx.cell 0 0 && t.gfx.cell 6 0 && !t.gfx.cell 7 0 &&
        !t.gfx.cell 62 0 && t.shouldDraw) := by decide

/-- V-D7. -/
theorem test_draw_coordinate_from_flag_register :
    gives (step ({ (((start 0xDF11).setV 15 10).setI 0x300).setMemByte 0x300 0x80 with gfx := blankScreen.toggle 10 0 }))
      (fun t => !t.gfx.cell 10 0 && decide (t.getV 15 = 1)) := by decide

/-- V-D10. -/
theorem test_clear_screen :
    gives (step ({ start 0x0FE0 with gfx := blankScreen.toggle 5 5 }))
      (fun t => !t.gfx.cell 5 5 && t.shouldDraw) := by decide

/-- V-T1. -/
theorem test_read_delay_timer :
    gives (step ((start 0xF307).setDt 0x3C)) (fun t => decide (t.getV 3 = 0x3C)) := by decide

/-- V-T2. -/
theorem test_set_delay_timer :
    gives (step ((start 0xF315).setV 3 0x3C))
      (fun t => decide (t.dt = 0x3C) && decide (t.st = 0)) := by decide

/-- V-T3. -/
theorem test_set_sound_timer :
    gives (step ((start 0xF318).setV 3 0x3C))
      (fun t => decide (t.st = 0x3C) && decide (t.dt = 0)) := by decide

/-- V-T5. -/
theorem test_key_wait_lowest :
    gives (step (((start 0xF30A).keySet 7 true).keySet 3 true))
      (fun t => decide (t.getV 3 = 3) && decide (t.pc = 0x202)) := by decide

/-- V-T4: with no key pressed the Step leaves the whole state as it was. -/
theorem test_key_wait_waits : step (start 0xF30A) = .next (start 0xF30A) := rfl

/-- V-C6: a jump to its own address leaves the whole state as it was. -/
theorem test_jump_to_itself : step (start 0x1200) = .next (start 0x1200) := rfl

/-- V-E1. -/
theorem test_unknown_word :
    gives (step (start 0x0123))
      (fun t => decide (t.errOut = [⟨.unknownOpcode, 0x200, some 0x0123, none⟩]) &&
        decide (t.pc = 0x202) && !t.halted) := by decide

/-- V-E4: under wrap12 the second byte of a fetch at 0xFFF is the font's first. -/
theorem test_fetch_wraps :
    gives (step ((State.reset.setPc 0xFFF).setMemByte 0xFFF 0x12)) (fun t => decide (t.pc = 0x2F0)) := by
  decide

/-- V-E5, V-C13: under fault the fetch stops, at the first address past memory. -/
theorem test_fetch_faults :
    gives (step (strict (State.reset.setPc 0xFFF))) (stopsWith .addressRange 0xFFF none (some 0x1000)) ∧
    gives (step (strict (State.reset.setPc 0x10FE)))
      (stopsWith .addressRange 0x10FE none (some 0x10FE)) := by decide

/-- V-E6: an odd pc is no fault. -/
theorem test_fetch_at_odd_pc :
    gives (step (((State.reset.setPc 0x201).setMemByte 0x201 0x60).setMemByte 0x202 0x05))
      (fun t => decide (t.getV 0 = 5) && decide (t.pc = 0x203)) := by decide

/-- V-E7: a Step of a halted core is not enabled. -/
theorem test_step_while_halted :
    stepCore ((start 0x6A42).raiseFault .stackUnderflow (some 0x00EE) none) = .fault .stepWhileHalted :=
  rfl

/-- V-T7, V-T8: a tick, and a tick of timers already at 0. -/
theorem test_tick :
    ((State.reset.setDt 2).setSt 1).tick = (State.reset.setDt 1).setSt 0 ∧
    State.reset.tick = State.reset := ⟨rfl, rfl⟩

/-- S12: 3585 bytes are too many (here as any image longer than 3584 bytes). -/
theorem test_load_too_large :
    (State.reset.load (List.replicate 3585 0x11)).1 = .tooLarge ∧
    (State.reset.load [0x11, 0x22]).1 = .ok ∧
    (State.reset.load [0x11, 0x22]).2.memByte 0x201 = 0x22 := by
  refine ⟨?_, by decide, by decide⟩
  rw [State.load, List.length_replicate]; rfl

/-- R205: events of the schedule come in order; a Step's own draw is used. -/
theorem test_schedule :
    gives (step ((start 0xC3FF).withSchedule [.step 0x5A, .tick]))
      (fun t => decide (t.getV 3 = 0x5A) && decide (t.schedule = [.tick]) && decide (t.draw = none)) := by
  decide

/-- P4, R212: a Step of the schedule that waits for a key takes only itself off the schedule. -/
theorem test_scheduled_step_waits :
    step ((start 0xF30A).withSchedule [.step 0x5A, .keySet 9 true]) =
      .next ((start 0xF30A).withSchedule [.keySet 9 true]) := rfl

/-- R202, 93 I24: a Load of a core that has run is refused. -/
theorem test_load_refused_later :
    applyEvent (.load [0x12]) (State.reset.setPc 0x202) = .refused .loadNotAfterReset := rfl

/-- V-E8, R39. -/
theorem test_draw_ack :
    gives (step ((State.reset.present blankScreen).withSchedule [.drawAck]))
      (fun t => !t.shouldDraw) := by decide
/-! ### Witnesses: states and operands that meet the hypotheses of each statement -/

theorem test_witness_DecodeOfEncodeGivesInstruction :
    (Instr.opDXYN 15 0 15).wellFormed = true ∧ (Instr.opDXYN 0 15 0).wellFormed = true := by decide

theorem test_witness_EncodeOfDecodeGivesWord :
    decodeWord 0x0FEE = .ok (.op00EE 15) ∧ decodeWord 0xDF1F = .ok (.opDXYN 15 1 15) := by decide

theorem test_witness_IgnoredBitsChangeNothing : (deep State.reset 1).sp ≠ 0 := by decide

/-- A state with an event scheduled, for the event Step(r), and one with none. -/
theorem test_witness_StepRunsDecodedInstruction :
    (start 0x6A42).running ∧ addr (start 0x6A42).cfg (start 0x6A42).pc.toNat = .ok 0x200 ∧
    addr (start 0x6A42).cfg ((start 0x6A42).pc.toNat + 1) = .ok 0x201 ∧
    decodeWord (BitVec.ofNat 16
      (((start 0x6A42).memByte 0x200).toNat * 256 + ((start 0x6A42).memByte 0x201).toNat)) =
      .ok (.op6XNN 10 0x42) ∧
    (start 0x6A42).schedule = [] ∧ ((start 0x6A42).withSchedule [.tick]).running :=
  ⟨rfl, rfl, rfl, by decide, rfl, rfl⟩

theorem test_witness_StepReportsUnknownWord :
    (start 0x0123).running ∧ addr (start 0x0123).cfg (start 0x0123).pc.toNat = .ok 0x200 ∧
    addr (start 0x0123).cfg ((start 0x0123).pc.toNat + 1) = .ok 0x201 ∧
    (0x0123 : Word) = BitVec.ofNat 16
      (((start 0x0123).memByte 0x200).toNat * 256 + ((start 0x0123).memByte 0x201).toNat) ∧
    decodeWord 0x0123 = .error .unknownCategory0 ∧ (start 0x0123).schedule = [] :=
  ⟨rfl, rfl, rfl, by decide, by decide, rfl⟩

/-- Both sides of the address 0x1000 that the record names. -/
theorem test_witness_FetchPastMemoryFaults :
    (strict (State.reset.setPc 0xFFF)).running ∧
    (strict (State.reset.setPc 0xFFF)).cfg.addrPolicy = .fault ∧
    0xFFF ≤ (strict (State.reset.setPc 0xFFF)).pc.toNat ∧
    (strict (State.reset.setPc 0xFFF)).schedule = [] ∧
    (strict (State.reset.setPc 0x1001)).running ∧
    0xFFF ≤ (strict (State.reset.setPc 0x1001)).pc.toNat :=
  ⟨rfl, rfl, by decide, rfl, rfl, by decide⟩

theorem test_witness_HaltedCoreTakesNoStep :
    (State.reset.raiseFault .stackUnderflow (some 0x00EE) none).halted = true := rfl

/-- One schedule for each clause. -/
theorem test_witness_ScheduledEventComesFirst :
    (State.reset.withSchedule [.tick]).schedule = .tick :: [] ∧
    (State.reset.withSchedule [.keySet 15 true, .tick]).schedule = .keySet 15 true :: [.tick] ∧
    (State.reset.withSchedule [.drawAck]).schedule = .drawAck :: [] ∧
    (State.reset.withSchedule [.reset]).schedule = .reset :: [] ∧
    (State.reset.withSchedule [.load [0x12]]).schedule = .load [0x12] :: [] ∧
    (State.reset.withSchedule [.step 0xFF]).schedule = .step 0xFF :: [] :=
  ⟨rfl, rfl, rfl, rfl, rfl, rfl⟩

/-- At the reset address and where the word wraps to address 0. -/
theorem test_witness_PlacedWordRunsNext :
    State.reset.running ∧ State.reset.cfg.addrPolicy = .wrap12 ∧
    decodeTableWord 16 0x6A42 = some (.op6XNN 10 0x42) ∧ (State.reset.setPc 0xFFF).running :=
  ⟨rfl, rfl, by decide, rfl⟩

theorem test_witness_EveryStepCompletes :
    State.reset.atStep ∧ (State.reset.withSchedule [.tick]).running := ⟨⟨rfl, rfl⟩, rfl⟩

/-- A draw given, and none given. -/
theorem test_witness_RandomIsMaskedDraw :
    (State.reset.giveDraw 0xFF).draw = some 0xFF ∧ State.reset.draw = none := ⟨rfl, rfl⟩

theorem test_witness_CallPushesOwnAddress :
    (deep State.reset 0).sp.val < 16 ∧ (deep State.reset 15).sp.val < 16 ∧
    (deep State.reset 16).sp.val = 16 := by decide

theorem test_witness_ReturnPopsAddress :
    0 < (deep State.reset 1).sp.val ∧ 0 < (deep State.reset 16).sp.val ∧
    (deep State.reset 0).sp.val = 0 := by decide

/-- A call, and a step of the subroutine after it (the word there is 0x0000, UNKNOWN). -/
theorem test_witness_CallReturnLaw :
    ∃ t u : State, (start 0x2300).sp.val < 16 ∧ exec (.op2NNN 0x300) (start 0x2300) = .next t ∧
      RunAbove (start 0x2300).sp.val t u ∧ u.sp.val = (start 0x2300).sp.val + 1 ∧ u.pc = 0x302 :=
  ⟨nextOr State.reset (exec (.op2NNN 0x300) (start 0x2300)),
    nextOr State.reset (step (nextOr State.reset (exec (.op2NNN 0x300) (start 0x2300)))),
    by decide, rfl, .step (.refl (by decide)) rfl (by decide), by decide, by decide⟩

/-- V[x] = 0xF under fault, and 0x10 and 0xFF under mask4. -/
theorem test_witness_KeySkipsTestKey :
    (State.reset.getV 0).toNat ≤ 0xF ∧ ((State.reset.setV 3 0xF).getV 3).toNat ≤ 0xF ∧
    (15 : Fin 16).val = ((State.reset.setV 3 0xF).getV 3).toNat % 16 ∧
    (masked (State.reset.setV 3 0x10)).cfg.keyIndexPolicy = .mask4 ∧
    (0 : Fin 16).val = ((masked (State.reset.setV 3 0x10)).getV 3).toNat % 16 ∧
    (15 : Fin 16).val = ((masked (State.reset.setV 3 0xFF)).getV 3).toNat % 16 := by decide

theorem test_witness_KeyIndexOutOfRangeFaults :
    (State.reset.setV 3 0x10).cfg.keyIndexPolicy = .fault ∧
    0xF < ((State.reset.setV 3 0x10).getV 3).toNat := by decide

/-- The premise x ≠ F of the ALU statements, at both ends. -/
theorem test_witness_destination_other_than_VF : (0 : Reg) ≠ regF ∧ (14 : Reg) ≠ regF := by decide

/-- The last index that is in range under fault, the first that is not, and any under wrap12. -/
theorem test_witness_StoreDecimalDigits :
    InRange (strict (State.reset.setI 0xFFD)) 3 ∧ ¬ InRange (strict (State.reset.setI 0xFFE)) 3 ∧
    InRange (State.reset.setI 0xFFFF) 3 := by
  unfold InRange; decide

theorem test_witness_StoreRegistersAtIndex :
    InRange (strict (State.reset.setI 0xFF0)) ((15 : Reg).val + 1) ∧
    ¬ InRange (strict (State.reset.setI 0xFF1)) ((15 : Reg).val + 1) ∧
    InRange (strict (State.reset.setI 0xFFF)) ((0 : Reg).val + 1) := by
  unfold InRange; decide

theorem test_witness_LoadRegistersFromIndex :
    InRange (strict (State.reset.setI 0xFFE)) ((1 : Reg).val + 1) ∧
    ¬ InRange (strict (State.reset.setI 0xFFF)) ((1 : Reg).val + 1) ∧
    InRange (State.reset.setI 0xFFFF) ((1 : Reg).val + 1) := by
  unfold InRange; decide

/-- The state of S9: stored, then V0 corrupted and I set back. -/
theorem test_witness_StoreThenLoadRestoresRegisters :
    ∃ t u : State, InRange ((start 0xF255).setI 0x300) ((2 : Reg).val + 1) ∧
      exec (.opFX55 2) ((start 0xF255).setI 0x300) = .next t ∧ u.mem = t.mem ∧ u.cfg = t.cfg ∧
      u.i = ((start 0xF255).setI 0x300).i ∧ u.getV 0 ≠ t.getV 0 :=
  ⟨nextOr State.reset (exec (.opFX55 2) ((start 0xF255).setI 0x300)),
    ((nextOr State.reset (exec (.opFX55 2) ((start 0xF255).setI 0x300))).setV 0 7).setI 0x300,
    .inl rfl, rfl, rfl, rfl, rfl, by decide⟩

theorem test_witness_MemoryReadsLastWrite : (0xFFF : Nat) ≠ 0 := by decide

/-- P5: the second of two stored bytes is the last register stored. -/
theorem test_witness_StoredBytesAreFetched :
    ∃ t u : State, InRange ((start 0xF155).setI 0x208) ((1 : Reg).val + 1) ∧
      exec (.opFX55 1) ((start 0xF155).setI 0x208) = .next t ∧ (0 : Reg).val + 1 ≤ (1 : Reg).val ∧
      u.mem = t.mem ∧ u.cfg = t.cfg ∧
      u.pc.toNat = ((start 0xF155).setI 0x208).i.toNat + (0 : Reg).val :=
  ⟨nextOr State.reset (exec (.opFX55 1) ((start 0xF155).setI 0x208)),
    (nextOr State.reset (exec (.opFX55 1) ((start 0xF155).setI 0x208))).setPc 0x208,
    .inl rfl, rfl, by decide, rfl, rfl, rfl⟩

theorem test_witness_StepWithDrawWritesThatDraw :
    (start 0xC30F).running ∧ (start 0xC30F).fetchWord = .ok 0xC30F ∧
    decodeWord 0xC30F = .ok (.opCXNN 3 0x0F) := ⟨rfl, by decide, by decide⟩

theorem test_witness_OnlyRandomReadsDraw :
    (∀ x nn, Instr.op6XNN 3 0x0F ≠ .opCXNN x nn) ∧
    ∃ t, exec (.op6XNN 3 0x0F) State.reset = .next t := ⟨by simp, _, rfl⟩

/-- n = 0 at any index, the last index in range, the first that is not; and n = 15. -/
theorem test_witness_DrawXorsSpriteAndReportsCollision :
    (0 : Nat) < 16 ∧ (15 : Nat) < 16 ∧ InRange (strict (State.reset.setI 0xFFFF)) 0 ∧
    InRange (strict (State.reset.setI 0xFF1)) 15 ∧
    ¬ InRange (strict (State.reset.setI 0xFF2)) 15 := by
  unfold InRange; decide

/-- S6, first draw: glyph 0 at (0, 0), on a clear screen, V0 kept. -/
theorem test_witness_DrawTwiceRestoresScreen :
    ∃ t, (5 : Nat) < 16 ∧ InRange (start 0xD015) 5 ∧ exec (.opDXYN 0 1 5) (start 0xD015) = .next t ∧
      t.getV 0 = (start 0xD015).getV 0 ∧ t.getV 1 = (start 0xD015).getV 1 ∧
      (start 0xD015).gfx.cell 0 0 = false ∧ t.gfx.cell 0 0 = true :=
  ⟨nextOr State.reset (exec (.opDXYN 0 1 5) (start 0xD015)), by decide, .inl rfl, rfl, by decide,
    by decide, by decide, by decide⟩

/-- The premise of the last clause: a clear screen. -/
theorem test_witness_DrawTwiceRestoresScreen_clear :
    ∀ px < 64, ∀ py < 32, (start 0xD015).gfx.cell px py = false := by
  intro px _ py _
  show State.reset.gfx.cell px py = false
  simp [State.reset, Screen.cell]

theorem test_witness_CollisionIsAClearedCell :
    (∃ t, (1 : Nat) < 16 ∧ InRange (State.reset.setI 0x300) 1 ∧
      exec (.opDXYN 0 0 1) (State.reset.setI 0x300) = .next t) ∧
    (∀ x y n, Instr.op00E0 0 ≠ .opDXYN x y n) ∧ ∃ t, exec (.op00E0 0) State.reset = .next t :=
  ⟨⟨nextOr State.reset (exec (.opDXYN 0 0 1) (State.reset.setI 0x300)), by decide, .inl rfl, rfl⟩,
    by simp, _, rfl⟩

/-- Setting the flag by 00E0; clearing it by DrawAck and by Reset. -/
theorem test_witness_RedrawFlagRule :
    (∃ t, exec (.op00E0 0) State.reset = .next t ∧ t.shouldDraw ≠ State.reset.shouldDraw) ∧
    (∃ t, step ((State.reset.present blankScreen).withSchedule [.drawAck]) = .next t ∧
      (State.reset.present blankScreen).shouldDraw = true ∧ t.shouldDraw = false) ∧
    (∃ t, step ((State.reset.present blankScreen).withSchedule [.reset]) = .next t ∧
      t.shouldDraw = false) :=
  ⟨⟨_, rfl, by decide⟩, ⟨_, rfl, rfl, rfl⟩, ⟨_, rfl, rfl⟩⟩

/-- Key 0 pressed, key 15 alone pressed, and none pressed. -/
theorem test_witness_KeyWait :
    ((State.reset.keySet 0 true).key[(0 : Fin 16).val] = true ∧
      ∀ j : Fin 16, j.val < (0 : Fin 16).val → (State.reset.keySet 0 true).key[j.val] = false) ∧
    ((State.reset.keySet 15 true).key[(15 : Fin 16).val] = true ∧
      ∀ j : Fin 16, j.val < (15 : Fin 16).val → (State.reset.keySet 15 true).key[j.val] = false) ∧
    ∀ k : Fin 16, State.reset.key[k.val] = false := by decide

theorem test_witness_SoundTimerIsNeverRead :
    (∃ t, exec (.opFX07 3) State.reset = .next t) ∧ ∃ t, exec (.opFX18 3) State.reset = .next t :=
  ⟨⟨_, rfl⟩, ⟨_, rfl⟩⟩

/-- The clauses about one address, at the ends of their ranges. -/
theorem test_witness_ResetRestoresInitialValues :
    (79 : Nat) < 80 ∧ (80 : Nat) ≤ 80 ∧ (4095 : Nat) < 4096 := by decide

/-- The empty image, the longest and the first that is too long. -/
theorem test_witness_LoadCopiesRom :
    ([] : List Byte).length ≤ 3584 ∧ (List.replicate 3584 (0x11 : Byte)).length ≤ 3584 ∧
    3584 < (List.replicate 3585 (0x11 : Byte)).length := by
  simp only [List.length_replicate, List.length_nil]; decide

/-- Directly after Reset, and in a state that another Reset changes. -/
theorem test_witness_LoadFollowsReset :
    (∃ t, applyEvent .reset (start 0x6A42) = .next t ∧ t ≠ start 0x6A42) ∧
    (List.replicate 3584 (0x11 : Byte)).length ≤ 3584 ∧
    3584 < (List.replicate 3585 (0x11 : Byte)).length := by
  simp only [List.length_replicate]
  exact ⟨⟨_, rfl, fun h => absurd (congrArg State.mem h) (by decide)⟩, by decide⟩

/-- An instruction that raises no fault, and one that does. -/
theorem test_witness_EveryInstructionKeepsItsFrame :
    (∃ t, exec (.op6XNN 3 0x0F) State.reset = .next t ∧ t.errOut = State.reset.errOut) ∧
    ∃ t, exec (.op00EE 0) State.reset = .next t ∧ t.errOut ≠ State.reset.errOut :=
  ⟨⟨_, rfl, rfl⟩, ⟨nextOr State.reset (exec (.op00EE 0) State.reset), rfl, by decide⟩⟩

/-- The event Step(r), and the step with nothing scheduled. -/
theorem test_witness_FaultsArePrecise :
    (∃ t, (start 0x00EE).running ∧ applyEvent (.step 0xFF) (start 0x00EE) = .next t ∧
      t.halted = true) ∧
    ∃ t, (start 0x00EE).atStep ∧ step (start 0x00EE) = .next t ∧ t.halted = true :=
  ⟨⟨nextOr State.reset (applyEvent (.step 0xFF) (start 0x00EE)), rfl, rfl, by decide⟩,
    nextOr State.reset (step (start 0x00EE)), ⟨rfl, rfl⟩, rfl, by decide⟩

/-- A step that adds a record. -/
theorem test_witness_ErrorChannelOnlyGrows :
    ∃ t, step (start 0x0123) = .next t ∧ t.errOut ≠ (start 0x0123).errOut :=
  ⟨nextOr State.reset (step (start 0x0123)), rfl, by decide⟩

/-- A Step, and the events that reset what they can. -/
theorem test_witness_ConfigurationIsFixed :
    (∃ t, step (start 0x6A42) = .next t) ∧
    ∃ t, step ((masked (start 0x6A42)).withSchedule [.reset]) = .next t :=
  ⟨⟨nextOr State.reset (step (start 0x6A42)), rfl⟩, ⟨_, rfl⟩⟩

/-- A key set by the host, and one released by Reset. -/
theorem test_witness_KeysChangeOnlyByHost :
    (∃ t, step (State.reset.withSchedule [.keySet 5 true]) = .next t ∧
      t.key ≠ State.reset.key) ∧
    ∃ t, step ((State.reset.keySet 5 true).withSchedule [.reset]) = .next t ∧
      t.key ≠ (State.reset.keySet 5 true).key :=
  ⟨⟨_, rfl, by decide⟩, ⟨_, rfl, by decide⟩⟩

/-- Each of the three fixed points, with V0 = 0x04 for the BNNN and a key change scheduled for the FX0A
(P4 of 95_test_vectors). -/
theorem test_witness_FixedPointsOfTheStep :
    (start 0x1200).fixedPoint ∧ ((start 0xB1FC).setV 0 4).fixedPoint ∧
    ((start 0xF30A).withSchedule [.step 0, .keySet 9 true]).fixedPoint ∧
    (start 0x1200).schedule = [] := ⟨rfl, rfl, rfl, rfl⟩

/-- A state with the invariant, and the step it makes. -/
theorem test_witness_EveryStepKeepsInvariant :
    State.reset.Inv ∧ ∃ t, step State.reset = .next t :=
  ⟨⟨rfl, by decide, by simp [State.reset], by simp [State.reset]⟩,
    ⟨nextOr State.reset (step State.reset), rfl⟩⟩

end Sys2Proof.Tests
end

section
/-! PROOFS. The configuration along every step of the machine (R7; log 5). -/

namespace Sys2Proof.Machine

@[simp] theorem State.fetchFault_cfg (s : State) (bad : Nat) : (s.fetchFault bad).cfg = s.cfg := rfl

@[simp] theorem State.resetEvent_cfg (s : State) : s.resetEvent.cfg = s.cfg := rfl

@[simp] theorem State.placeBytes_cfg (s : State) (a : Nat) (bs : List Byte) :
    (s.placeBytes a bs).cfg = s.cfg := by rw [placeBytes_eq]

/-- An instruction keeps the configuration, whether it completes or raises a fault. -/
theorem exec_cfg {i : Instr} {s t : State} (h : exec i s = .next t) : t.cfg = s.cfg := by
  obtain ⟨c, w, info, -, rfl⟩ | hq := exec_cases h
  · exact State.raiseFault_cfg s c w info
  · exact hq.cfg

/-- A Step keeps the configuration, on each of its ways (R190). -/
theorem stepCore_cfg {s t : State} (h : stepCore s = .next t) : t.cfg = s.cfg := by
  obtain ⟨-, ⟨bad, -, rfl⟩ | ⟨w, e, -, -, rfl⟩ | ⟨w, i, -, -, hi⟩⟩ := stepCore_cases h
  · exact State.fetchFault_cfg s bad
  · exact State.skipUnknown_cfg s w
  · exact exec_cfg hi

/-- Every host event keeps the configuration; Reset too, which keeps what is no element of R36
(log 10). -/
theorem applyEvent_cfg {e : Event} {s t : State} (h : applyEvent e s = .next t) :
    t.cfg = s.cfg := by
  cases e with
  | reset => cases h; exact State.resetEvent_cfg s
  | load rom =>
    obtain ⟨-, -, rfl⟩ := loadEvent_cases h
    exact State.placeBytes_cfg s programBase rom
  | step r =>
    obtain ⟨u, hu, rfl⟩ := stepWith_cases h
    simpa using stepCore_cfg hu
  | tick => cases h; exact State.tick_cfg s
  | keySet k pressed => cases h; exact State.keySet_cfg s k pressed
  | drawAck => cases h; exact State.drawAck_cfg s

/-- Settles O53: a step is an unscheduled Step or the next host event, and each of the two keeps the
configuration. -/
theorem configurationIsFixed : Obligations.ConfigurationIsFixed := by
  intro s t h
  cases hs : s.schedule with
  | nil =>
    rw [step_core hs] at h
    exact stepCore_cfg h
  | cons e es =>
    rw [step_event hs] at h
    exact (applyEvent_cfg h).trans (State.withSchedule_cfg s es)

end Sys2Proof.Machine
end

section
/-! PROOFS. Every instruction stays within its frame (R35, R83): which elements each update of the
state leaves in agreement, and from that the frame of each instruction. -/

namespace Sys2Proof.Machine

theorem agree_refl (e : Elem) (s : State) : agree e s s := by cases e <;> rfl

/-! ### One frame rule per update -/

theorem agree_setPc {e : Elem} {s t : State} (a : Word) (he : e ≠ .pc) (h : agree e s t) :
    agree e s (t.setPc a) := by
  cases e with
  | pc => exact absurd rfl he
  | _ => exact h

theorem agree_setFlag {e : Elem} {s t : State} (b : Bool) (he : e ≠ .reg regF) (h : agree e s t) :
    agree e s (t.setFlag b) := agree_setV regF _ he h

theorem agree_setDt {e : Elem} (s : State) (b : Byte) (he : e ≠ .dt) : agree e s (s.setDt b) := by
  cases e with
  | dt => exact absurd rfl he
  | _ => rfl

theorem agree_setSt {e : Elem} (s : State) (b : Byte) (he : e ≠ .st) : agree e s (s.setSt b) := by
  cases e with
  | st => exact absurd rfl he
  | _ => rfl

theorem agree_present {e : Elem} {s t : State} (g : Screen) (hg : e ≠ .gfx) (hd : e ≠ .shouldDraw)
    (h : agree e s t) : agree e s (t.present g) := by
  cases e with
  | gfx => exact absurd rfl hg
  | shouldDraw => exact absurd rfl hd
  | _ => exact h

theorem agree_dropDraw {e : Elem} (s : State) (hd : e ≠ .draw) (hc : e ≠ .drawCount) :
    agree e s s.dropDraw := by
  unfold State.dropDraw
  split <;> cases e with
  | draw => exact absurd rfl hd
  | drawCount => exact absurd rfl hc
  | _ => rfl

/-- Loading registers keeps the agreement of everything but the registers loaded. -/
theorem agree_setVs {e : Elem} (s : State) (bs : List Byte)
    (he : ∀ r : Reg, r.val < bs.length → e ≠ .reg r) : agree e s (s.setVs bs) := by
  cases e with
  | reg r => exact (getV_setVs s bs r).trans (dif_neg fun hr => he r hr rfl)
  | _ => rfl

/-- Moving sp and changing the stack keeps the agreement of every element but sp and the stack
entries that now differ. -/
theorem agree_stack {e : Elem} (s : State) (st : Vector Word 16) (sp : Fin 17) (hs : e ≠ .sp)
    (hk : ∀ k : Fin 16, e = .stackEntry k → st[k.val] = s.stack[k.val]) :
    agree e s { s with stack := st, sp := sp } := by
  cases e with
  | sp => exact absurd rfl hs
  | stackEntry k => exact hk k rfl
  | _ => rfl

theorem agree_aluWrite {e : Elem} (s : State) (x : Reg) (b : Byte) (hpc : e ≠ .pc)
    (hx : e ≠ .reg x) : agree e s (s.aluWrite x b) :=
  agree_advance 2 hpc (agree_setV x b hx (agree_refl e s))

theorem agree_aluWriteFlag {e : Elem} (s : State) (x : Reg) (b : Byte) (f : Bool) (hpc : e ≠ .pc)
    (hx : e ≠ .reg x) (hf : e ≠ .reg regF) : agree e s (s.aluWriteFlag x b f) :=
  agree_advance 2 hpc (agree_setFlag f hf (agree_setV x b hx (agree_refl e s)))

/-! ### A fault shows on the error channel -/

/-- An instruction whose answer is a fault does not leave the error channel as it was. -/
theorem exec_fault_adds_record {i : Instr} {s t : State} {c : Cause} {w : Option Word}
    {info : Option Nat} (hf : exec i s = .next (s.raiseFault c w info)) (h : exec i s = .next t) :
    t.errOut ≠ s.errOut := by
  rw [hf] at h; cases h; simp

theorem agree_raiseFault {e : Elem} (s : State) (c : Cause) (w : Option Word) (info : Option Nat)
    (he : ¬ faultElem e) : agree e s (s.raiseFault c w info) := by
  obtain ⟨-, -, -, hframe⟩ := raiseFault_faultTaken s c w info
  exact hframe e he

/-! ### The frame of each instruction -/

/-- The addresses of an access that resolves. -/
theorem accessed_eq {s : State} {n : Nat} {as : List Nat}
    (h : addrRange s.cfg s.indexAddr n = .ok as) : accessed s n = as := by
  simp [accessed, h]

/-- An instruction that adds no record writes what R35 lists for it, and nothing else. -/
theorem exec_onlyWrites {i : Instr} {s t : State} (h : exec i s = .next t)
    (hquiet : t.errOut = s.errOut) : OnlyWrites i s t := by
  intro e he
  cases i with
  | op00E0 m =>
    cases h
    simp only [writesElem, not_or] at he
    obtain ⟨hpc, hg, hd⟩ := he
    exact agree_advance 2 hpc (agree_present blankScreen hg hd (agree_refl e s))
  | op00EE m =>
    simp only [writesElem, not_or] at he
    obtain ⟨hpc, hsp⟩ := he
    by_cases hs : s.sp.val = 0
    · exact absurd hquiet (exec_fault_adds_record (exec_op00EE_underflow _ _ hs) h)
    · rw [exec_op00EE_ok _ _ (by omega)] at h; cases h
      exact agree_setPc _ hpc (agree_stack s s.stack _ hsp fun _ _ => rfl)
  | op1NNN nnn => cases h; exact agree_setPc _ he (agree_refl e s)
  | opBNNN nnn => cases h; exact agree_setPc _ he (agree_refl e s)
  | op2NNN nnn =>
    simp only [writesElem, not_or, not_exists, not_and] at he
    obtain ⟨hpc, hsp, hentry⟩ := he
    by_cases hs : s.sp.val = 16
    · exact absurd hquiet (exec_fault_adds_record (exec_op2NNN_overflow _ _ hs) h)
    · rw [exec_op2NNN_ok _ _ (by have := s.sp.isLt; omega)] at h; cases h
      refine agree_setPc _ hpc (agree_stack s _ _ hsp fun k hk => ?_)
      exact Vector.getElem_set_ne _ _ fun hsk => hentry k hsk.symm hk
  | op3XNN x nn => rw [exec_op3XNN] at h; cases h; exact agree_advance _ he (agree_refl e s)
  | op4XNN x nn => rw [exec_op4XNN] at h; cases h; exact agree_advance _ he (agree_refl e s)
  | op5XY0 x y n => rw [exec_op5XY0] at h; cases h; exact agree_advance _ he (agree_refl e s)
  | op9XY0 x y n => rw [exec_op9XY0] at h; cases h; exact agree_advance _ he (agree_refl e s)
  | opEX9E x =>
    cases hk : keyIndex s.cfg (s.getV x) with
    | none => exact absurd hquiet (exec_fault_adds_record (exec_opEX9E_fault _ _ hk) h)
    | some k => rw [exec_opEX9E_ok _ _ hk] at h; cases h; exact agree_advance _ he (agree_refl e s)
  | opEXA1 x =>
    cases hk : keyIndex s.cfg (s.getV x) with
    | none => exact absurd hquiet (exec_fault_adds_record (exec_opEXA1_fault _ _ hk) h)
    | some k => rw [exec_opEXA1_ok _ _ hk] at h; cases h; exact agree_advance _ he (agree_refl e s)
  | op6XNN x _ | op7XNN x _ | op8XY0 x _ | op8XY1 x _ | op8XY2 x _ | op8XY3 x _ | opFX07 x =>
    cases h
    obtain ⟨hpc, hx⟩ := not_or.1 he
    exact agree_aluWrite s x _ hpc hx
  | op8XY4 x _ | op8XY5 x _ | op8XY6 x _ | op8XY7 x _ | op8XYE x _ =>
    cases h
    simp only [writesElem, not_or] at he
    obtain ⟨hpc, hx, hf⟩ := he
    exact agree_aluWriteFlag s x _ _ hpc hx hf
  | opANNN _ | opFX29 _ =>
    cases h
    obtain ⟨hpc, hi⟩ := not_or.1 he
    exact agree_advance 2 hpc (agree_setI _ hi (agree_refl e s))
  | opCXNN x nn =>
    rw [exec_opCXNN] at h; cases h
    simp only [writesElem, not_or] at he
    obtain ⟨hpc, hx, hd, hc⟩ := he
    exact agree_advance 2 hpc (agree_setV x _ hx (agree_dropDraw s hd hc))
  | opDXYN x y n =>
    simp only [writesElem, not_or] at he
    obtain ⟨hpc, hg, hd, hf⟩ := he
    cases ha : addrRange s.cfg s.indexAddr n with
    | error bad => exact absurd hquiet (exec_fault_adds_record (exec_opDXYN_fault _ _ _ ha) h)
    | ok as =>
      rw [exec_opDXYN_ok _ _ _ ha] at h; cases h
      exact agree_advance 2 hpc (agree_present _ hg hd (agree_setFlag _ hf (agree_refl e s)))
  | opFX0A x =>
    cases hk : s.firstPressed with
    | none => rw [exec_opFX0A_waiting _ _ hk] at h; cases h; exact agree_refl e s
    | some k =>
      rw [exec_opFX0A_pressed _ _ hk] at h; cases h
      obtain ⟨hlt, hdown, -⟩ := (firstPressed_eq_some s k).1 hk
      obtain ⟨hpc, hx⟩ := not_or.1 fun hw => he ⟨⟨⟨k, hlt⟩, hdown⟩, hw⟩
      exact agree_aluWrite s x _ hpc hx
  | opFX15 x =>
    cases h
    obtain ⟨hpc, hdt⟩ := not_or.1 he
    exact agree_advance 2 hpc (agree_setDt s _ hdt)
  | opFX18 x =>
    cases h
    obtain ⟨hpc, hst⟩ := not_or.1 he
    exact agree_advance 2 hpc (agree_setSt s _ hst)
  | opFX1E x =>
    cases h
    simp only [writesElem, not_or] at he
    obtain ⟨hpc, hi, hf⟩ := he
    exact agree_advance 2 hpc (agree_setFlag _ hf (agree_setI _ hi (agree_refl e s)))
  | opFX33 x =>
    simp only [writesElem, not_or, not_exists, not_and] at he
    obtain ⟨hpc, hmem⟩ := he
    cases ha : addrRange s.cfg s.indexAddr 3 with
    | error bad => exact absurd hquiet (exec_fault_adds_record (exec_opFX33_fault _ _ ha) h)
    | ok as =>
      rw [exec_opFX33_ok _ _ ha] at h; cases h
      rw [accessed_eq ha] at hmem
      exact agree_advance 2 hpc (agree_setMemBytes s as _ (addrRange_length ha) hmem)
  | opFX55 x =>
    simp only [writesElem, not_or, not_exists, not_and] at he
    obtain ⟨hpc, hi, hmem⟩ := he
    cases ha : addrRange s.cfg s.indexAddr (x.val + 1) with
    | error bad => exact absurd hquiet (exec_fault_adds_record (exec_opFX55_fault _ _ ha) h)
    | ok as =>
      rw [exec_opFX55_ok _ _ ha] at h; cases h
      rw [accessed_eq ha] at hmem
      have hl : as.length = (s.regBlock x).length := by simp [addrRange_length ha]
      exact agree_advance 2 hpc (agree_setI _ hi (agree_setMemBytes s as _ hl hmem))
  | opFX65 x =>
    simp only [writesElem, not_or, not_exists, not_and] at he
    obtain ⟨hpc, hi, hregs⟩ := he
    cases ha : addrRange s.cfg s.indexAddr (x.val + 1) with
    | error bad => exact absurd hquiet (exec_fault_adds_record (exec_opFX65_fault _ _ ha) h)
    | ok as =>
      rw [exec_opFX65_ok _ _ ha] at h; cases h
      refine agree_advance 2 hpc (agree_setI _ hi (agree_setVs s _ fun r hr => hregs r ?_))
      rw [List.length_map, addrRange_length ha] at hr
      omega

/-- Settles O50: without a record by the frame of each instruction; with one the instruction raised
its fault, which writes the fault status and the record alone. -/
theorem everyInstructionKeepsItsFrame : Obligations.EveryInstructionKeepsItsFrame := by
  intro i s t h
  refine ⟨exec_onlyWrites h, fun hne e he => ?_⟩
  obtain ⟨c, w, info, -, rfl⟩ | hq := exec_cases h
  · exact agree_raiseFault s c w info he
  · exact absurd hq.errOut hne

end Sys2Proof.Machine
end

section
/-! PROOFS. The invariant along every step of the machine (R32, R181, R184; log 11). -/

namespace Sys2Proof.Machine

/-- A step is an unscheduled Step or the next event of the schedule (log 7). -/
theorem step_cases {s t : State} (h : step s = .next t) :
    (s.schedule = [] ∧ stepCore s = .next t) ∨
      ∃ e es, s.schedule = e :: es ∧ applyEvent e (s.withSchedule es) = .next t := by
  cases hs : s.schedule with
  | nil => exact .inl ⟨rfl, step_core hs ▸ h⟩
  | cons e es => exact .inr ⟨e, es, rfl, step_event hs ▸ h⟩

/-! ### States that have the invariant -/

/-- Agreement in fault status, records and pc carries the invariant over, if memory is canonical. -/
theorem State.Inv.of_status_eq {s t : State} (h : s.Inv)
    (hmem : Memory.wf t.cfg.font t.mem = true) (hhalted : t.halted = s.halted)
    (hcause : t.faultCause = s.faultCause) (herr : t.errOut = s.errOut) (hpc : t.pc = s.pc) :
    t.Inv where
  memWf := hmem
  haltedIff := by rw [hhalted, hcause]; exact h.haltedIff
  causeFatal := by rw [hcause]; exact h.causeFatal
  lastRecord := by rw [hcause, herr, hpc]; exact h.lastRecord

/-- With no fault status only the memory matters. -/
theorem inv_of_noFault {s : State} (hmem : Memory.wf s.cfg.font s.mem = true)
    (hhalted : s.halted = false) (hcause : s.faultCause = none) : s.Inv where
  memWf := hmem
  haltedIff := by simp [hhalted, hcause]
  causeFatal := by simp [hcause]
  lastRecord := by simp [hcause]

theorem State.Inv.faultCause_eq_none {s : State} (h : s.Inv) (hrun : s.halted = false) :
    s.faultCause = none := by
  by_contra hne
  exact Bool.false_ne_true (hrun.symm.trans (h.haltedIff.2 hne))

/-- Taking a fatal fault makes its record the last one, at the pc that stays (R184). -/
theorem inv_raiseFault {s : State} {c : Cause} (w : Option Word) (info : Option Nat)
    (hc : c.fatal = true) (hmem : Memory.wf s.cfg.font s.mem = true) :
    (s.raiseFault c w info).Inv where
  memWf := hmem
  haltedIff := by simp
  causeFatal := by simpa using hc
  lastRecord := by simp

/-! ### Steps that keep it -/

theorem exec_inv {i : Instr} {s t : State} (hs : s.Inv) (hrun : s.halted = false)
    (h : exec i s = .next t) : t.Inv := by
  obtain ⟨c, w, info, hc, rfl⟩ | hq := exec_cases h
  · exact inv_raiseFault w info hc hs.memWf
  · exact inv_of_noFault (hq.wf hs.memWf) (hq.halted.trans hrun)
      (hq.faultCause.trans (hs.faultCause_eq_none hrun))

theorem stepCore_inv {s t : State} (hs : s.Inv) (h : stepCore s = .next t) : t.Inv := by
  obtain ⟨hrun, ⟨bad, -, rfl⟩ | ⟨w, e, -, -, rfl⟩ | ⟨w, i, -, -, hi⟩⟩ := stepCore_cases h
  · exact inv_raiseFault none (some bad) rfl hs.memWf
  · exact inv_of_noFault hs.memWf hrun (hs.faultCause_eq_none hrun)
  · exact exec_inv hs hrun hi

theorem inv_resetEvent (s : State) : s.resetEvent.Inv :=
  inv_of_noFault (wf_reset s.cfg.font) rfl rfl

theorem inv_placeBytes {s : State} (hs : s.Inv) (a : Nat) (bs : List Byte)
    (hl : a + bs.length ≤ memSize) : (s.placeBytes a bs).Inv := by
  have hmem := wf_placeBytes s a bs hs.memWf hl
  rw [placeBytes_eq]
  exact hs.of_status_eq hmem rfl rfl rfl rfl

theorem applyEvent_inv {e : Event} {s t : State} (hs : s.Inv) (h : applyEvent e s = .next t) :
    t.Inv := by
  cases e with
  | reset => cases h; exact inv_resetEvent s
  | load rom =>
    obtain ⟨-, hl, rfl⟩ := loadEvent_cases h
    exact inv_placeBytes hs _ rom (by unfold maxRom at hl; unfold programBase memSize; omega)
  | step r =>
    obtain ⟨u, hu, rfl⟩ := stepWith_cases h
    have hdraw : (s.giveDraw r).Inv := hs.of_status_eq hs.memWf rfl rfl rfl rfl
    have hu := stepCore_inv hdraw hu
    exact hu.of_status_eq hu.memWf rfl rfl rfl rfl
  | tick | keySet k pressed | drawAck => cases h; exact hs.of_status_eq hs.memWf rfl rfl rfl rfl

/-- Settles O56: an unscheduled Step keeps the invariant, and so does every host event, Reset by
setting it up again. -/
theorem everyStepKeepsInvariant : Obligations.EveryStepKeepsInvariant := by
  intro s t hs h
  obtain ⟨-, h⟩ | ⟨e, es, -, h⟩ := step_cases h
  · exact stepCore_inv hs h
  · have hrest : (s.withSchedule es).Inv := hs.of_status_eq hs.memWf rfl rfl rfl rfl
    exact applyEvent_inv hrest h

/-- Settles O57: the reset state has no fault status, and the empty list of memory is canonical. -/
theorem resetHasInvariant : Obligations.ResetHasInvariant :=
  inv_of_noFault (wf_reset defaultConfig.font) rfl rfl

end Sys2Proof.Machine
end

section
/-! PROOFS. What a step does to the redraw flag, the keys and the error channel (R29, R31, R33). -/

namespace Sys2Proof.Machine

@[simp] theorem State.placeBytes_shouldDraw (s : State) (a : Nat) (bs : List Byte) :
    (s.placeBytes a bs).shouldDraw = s.shouldDraw := by rw [placeBytes_eq]

@[simp] theorem State.placeBytes_key (s : State) (a : Nat) (bs : List Byte) :
    (s.placeBytes a bs).key = s.key := by rw [placeBytes_eq]

@[simp] theorem State.placeBytes_errOut (s : State) (a : Nat) (bs : List Byte) :
    (s.placeBytes a bs).errOut = s.errOut := by rw [placeBytes_eq]

/-! ### The redraw flag (R31, R165; decision D14) -/

theorem writesElem_shouldDraw {i : Instr} {s : State} (h : writesElem i s .shouldDraw) :
    (∃ x, i = .op00E0 x) ∨ ∃ x y n, i = .opDXYN x y n := by
  cases i with
  | op00E0 x => exact .inl ⟨x, rfl⟩
  | opDXYN x y n => exact .inr ⟨x, y, n, rfl⟩
  | _ => simp [writesElem] at h

/-- By the frame, an instruction that changes the redraw flag is one that draws; both set it. -/
theorem exec_changes_shouldDraw {i : Instr} {s t : State} (h : exec i s = .next t)
    (hne : t.shouldDraw ≠ s.shouldDraw) :
    t.shouldDraw = true ∧ ((∃ x, i = .op00E0 x) ∨ ∃ x y n, i = .opDXYN x y n) := by
  obtain ⟨c, w, info, -, rfl⟩ | hq := exec_cases h
  · exact absurd rfl hne
  · have hdraws := writesElem_shouldDraw (by_contra fun hw =>
      hne (exec_onlyWrites h hq.errOut .shouldDraw hw))
    refine ⟨?_, hdraws⟩
    obtain ⟨x, rfl⟩ | ⟨x, y, n, rfl⟩ := hdraws
    · cases h; rfl
    · cases ha : addrRange s.cfg s.indexAddr n with
      | error bad => exact absurd hq.errOut (exec_fault_adds_record (exec_opDXYN_fault _ _ _ ha) h)
      | ok as => rw [exec_opDXYN_ok _ _ _ ha] at h; cases h; rfl

theorem stepCore_keeps_shouldDraw {s t : State} (h : stepCore s = .next t)
    (hs : s.shouldDraw = true) : t.shouldDraw = true := by
  obtain ⟨-, ⟨bad, -, rfl⟩ | ⟨w, e, -, -, rfl⟩ | ⟨w, i, -, -, hi⟩⟩ := stepCore_cases h
  · exact hs
  · exact hs
  · by_cases heq : t.shouldDraw = s.shouldDraw
    · exact heq.trans hs
    · exact (exec_changes_shouldDraw hi heq).1

theorem applyEvent_clears_shouldDraw {e : Event} {s t : State} (h : applyEvent e s = .next t)
    (hs : s.shouldDraw = true) (ht : t.shouldDraw = false) : e = .drawAck ∨ e = .reset := by
  by_contra! hne
  obtain ⟨hack, hreset⟩ := hne
  refine Bool.false_ne_true (ht.symm.trans ?_)
  cases e with
  | drawAck => exact absurd rfl hack
  | reset => exact absurd rfl hreset
  | load rom =>
    obtain ⟨-, -, rfl⟩ := loadEvent_cases h
    exact (State.placeBytes_shouldDraw s programBase rom).trans hs
  | step r =>
    obtain ⟨u, hu, rfl⟩ := stepWith_cases h
    exact (stepCore_keeps_shouldDraw hu hs : u.shouldDraw = true)
  | tick | keySet k pressed => cases h; exact hs

/-- Settles O41: setting it by the frame of an instruction, clearing it by the case of the event,
since no Step clears it. -/
theorem redrawFlagRule : Obligations.RedrawFlagRule := by
  refine ⟨fun i s t => exec_changes_shouldDraw, fun s t h hs ht => ?_⟩
  obtain ⟨-, h⟩ | ⟨e, es, hes, h⟩ := step_cases h
  · exact absurd ht (by simp [stepCore_keeps_shouldDraw h hs])
  · obtain rfl | rfl := applyEvent_clears_shouldDraw h hs ht
    · exact ⟨es, .inl hes⟩
    · exact ⟨es, .inr hes⟩

/-! ### The keys (R29, R43) -/

theorem stepCore_key {s t : State} (h : stepCore s = .next t) : t.key = s.key := by
  obtain ⟨-, ⟨bad, -, rfl⟩ | ⟨w, e, -, -, rfl⟩ | ⟨w, i, -, -, hi⟩⟩ := stepCore_cases h
  · rfl
  · rfl
  · obtain ⟨c, w, info, -, rfl⟩ | hq := exec_cases hi
    · rfl
    · exact hq.key

theorem applyEvent_changes_key {e : Event} {s t : State} (h : applyEvent e s = .next t)
    (hne : t.key ≠ s.key) : e = .reset ∨ ∃ k b, e = .keySet k b := by
  cases e with
  | reset => exact .inl rfl
  | keySet k b => exact .inr ⟨k, b, rfl⟩
  | load rom =>
    obtain ⟨-, -, rfl⟩ := loadEvent_cases h
    exact absurd (State.placeBytes_key s programBase rom) hne
  | step r =>
    obtain ⟨u, hu, rfl⟩ := stepWith_cases h
    exact absurd (stepCore_key hu) hne
  | tick | drawAck => cases h; exact absurd rfl hne

/-- Settles O54: a Step leaves the keys alone, and so do the events but KeySet and Reset. -/
theorem keysChangeOnlyByHost : Obligations.KeysChangeOnlyByHost := by
  intro s t h hne
  obtain ⟨-, h⟩ | ⟨e, es, hes, h⟩ := step_cases h
  · exact absurd (stepCore_key h) hne
  · obtain rfl | ⟨k, b, rfl⟩ := applyEvent_changes_key h hne
    · exact ⟨es, .inl hes⟩
    · exact ⟨es, .inr ⟨k, b, hes⟩⟩

/-! ### The error channel (R33, R200; decision D8) -/

/-- The records of `t` are those of `s` and at most one more after them. -/
def AppendsAtMostOne (s t : State) : Prop := ∃ rs, t.errOut = s.errOut ++ rs ∧ rs.length ≤ 1

theorem AppendsAtMostOne.of_same {s t : State} (h : t.errOut = s.errOut) : AppendsAtMostOne s t :=
  ⟨[], by simp [h], by simp⟩

theorem AppendsAtMostOne.of_record {s t : State} {r : ErrorRecord}
    (h : t.errOut = s.errOut ++ [r]) : AppendsAtMostOne s t := ⟨[r], h, le_rfl⟩

theorem stepCore_appends {s t : State} (h : stepCore s = .next t) : AppendsAtMostOne s t := by
  obtain ⟨-, ⟨bad, -, rfl⟩ | ⟨w, e, -, -, rfl⟩ | ⟨w, i, -, -, hi⟩⟩ := stepCore_cases h
  · exact .of_record rfl
  · exact .of_record rfl
  · obtain ⟨c, w, info, -, rfl⟩ | hq := exec_cases hi
    · exact .of_record rfl
    · exact .of_same hq.errOut

theorem applyEvent_appends {e : Event} {s t : State} (h : applyEvent e s = .next t) :
    AppendsAtMostOne s t := by
  cases e with
  | load rom =>
    obtain ⟨-, -, rfl⟩ := loadEvent_cases h
    exact .of_same (State.placeBytes_errOut s programBase rom)
  | step r =>
    obtain ⟨u, hu, rfl⟩ := stepWith_cases h
    exact (stepCore_appends hu : AppendsAtMostOne (s.giveDraw r) u)
  | reset | tick | keySet k pressed | drawAck => cases h; exact .of_same rfl

/-- Settles O52: a Step reports at most once, and no host event of its own touches the channel. -/
theorem errorChannelOnlyGrows : Obligations.ErrorChannelOnlyGrows := by
  intro s t h
  obtain ⟨-, h⟩ | ⟨e, es, -, h⟩ := step_cases h
  · exact stepCore_appends h
  · exact (applyEvent_appends h : AppendsAtMostOne (s.withSchedule es) t)

end Sys2Proof.Machine
end

section
/-! PROOFS. The sound timer plays no part in an instruction (R30, R172, R175). -/

namespace Sys2Proof.Machine

theorem setMemBytes_setSt (s : State) (b : Byte) (cs : List (Nat × Byte)) :
    (s.setSt b).setMemBytes cs = (s.setMemBytes cs).setSt b := by
  induction cs generalizing s with
  | nil => rfl
  | cons c cs ih => exact ih (s.setMemByte c.1 c.2)

theorem dropDraw_setSt (s : State) (b : Byte) : (s.setSt b).dropDraw = s.dropDraw.setSt b := by
  cases hd : s.draw <;> simp [State.dropDraw, State.setSt, hd]

/-- Settles O45: with another ST each instruction takes the same path and answers the same updates
of the state, and of these only FX18's is one of ST. -/
theorem soundTimerIsNeverRead : Obligations.SoundTimerIsNeverRead := by
  intro i s t b h
  cases i with
  | op00EE m =>
    by_cases hs : s.sp.val = 0
    · rw [exec_op00EE_underflow _ _ hs] at h; cases h
      exact exec_op00EE_underflow (s.setSt b) m hs
    · rw [exec_op00EE_ok _ _ (by omega)] at h; cases h
      exact exec_op00EE_ok (s.setSt b) m (Nat.pos_of_ne_zero hs)
  | op2NNN nnn =>
    by_cases hs : s.sp.val = 16
    · rw [exec_op2NNN_overflow _ _ hs] at h; cases h
      exact exec_op2NNN_overflow (s.setSt b) nnn hs
    · have hlt : s.sp.val < 16 := by have := s.sp.isLt; omega
      rw [exec_op2NNN_ok _ _ hlt] at h; cases h
      exact exec_op2NNN_ok (s.setSt b) nnn hlt
  | op3XNN x nn => rw [exec_op3XNN] at h; cases h; exact exec_op3XNN (s.setSt b) x nn
  | op4XNN x nn => rw [exec_op4XNN] at h; cases h; exact exec_op4XNN (s.setSt b) x nn
  | op5XY0 x y n => rw [exec_op5XY0] at h; cases h; exact exec_op5XY0 (s.setSt b) x y n
  | op9XY0 x y n => rw [exec_op9XY0] at h; cases h; exact exec_op9XY0 (s.setSt b) x y n
  | opCXNN x nn =>
    rw [exec_opCXNN] at h; cases h
    refine (exec_opCXNN (s.setSt b) x nn).trans ?_
    rw [dropDraw_setSt]; rfl
  | opDXYN x y n =>
    cases ha : addrRange s.cfg s.indexAddr n with
    | error bad =>
      rw [exec_opDXYN_fault _ _ _ ha] at h; cases h
      exact exec_opDXYN_fault (s.setSt b) x y ha
    | ok as =>
      rw [exec_opDXYN_ok _ _ _ ha] at h; cases h
      exact exec_opDXYN_ok (s.setSt b) x y ha
  | opEX9E x =>
    cases hk : keyIndex s.cfg (s.getV x) with
    | none => rw [exec_opEX9E_fault _ _ hk] at h; cases h; exact exec_opEX9E_fault (s.setSt b) x hk
    | some k => rw [exec_opEX9E_ok _ _ hk] at h; cases h; exact exec_opEX9E_ok (s.setSt b) x hk
  | opEXA1 x =>
    cases hk : keyIndex s.cfg (s.getV x) with
    | none => rw [exec_opEXA1_fault _ _ hk] at h; cases h; exact exec_opEXA1_fault (s.setSt b) x hk
    | some k => rw [exec_opEXA1_ok _ _ hk] at h; cases h; exact exec_opEXA1_ok (s.setSt b) x hk
  | opFX0A x =>
    cases hk : s.firstPressed with
    | none =>
      rw [exec_opFX0A_waiting _ _ hk] at h; cases h
      exact exec_opFX0A_waiting (s.setSt b) x hk
    | some k =>
      rw [exec_opFX0A_pressed _ _ hk] at h; cases h
      exact exec_opFX0A_pressed (s.setSt b) x hk
  | opFX33 x =>
    cases ha : addrRange s.cfg s.indexAddr 3 with
    | error bad =>
      rw [exec_opFX33_fault _ _ ha] at h; cases h
      exact exec_opFX33_fault (s.setSt b) x ha
    | ok as =>
      rw [exec_opFX33_ok _ _ ha] at h; cases h
      refine (exec_opFX33_ok (s.setSt b) x ha).trans ?_
      rw [setMemBytes_setSt]; rfl
  | opFX55 x =>
    cases ha : addrRange s.cfg s.indexAddr (x.val + 1) with
    | error bad =>
      rw [exec_opFX55_fault _ _ ha] at h; cases h
      exact exec_opFX55_fault (s.setSt b) x ha
    | ok as =>
      rw [exec_opFX55_ok _ _ ha] at h; cases h
      refine (exec_opFX55_ok (s.setSt b) x ha).trans ?_
      rw [setMemBytes_setSt]; rfl
  | opFX65 x =>
    cases ha : addrRange s.cfg s.indexAddr (x.val + 1) with
    | error bad =>
      rw [exec_opFX65_fault _ _ ha] at h; cases h
      exact exec_opFX65_fault (s.setSt b) x ha
    | ok as =>
      rw [exec_opFX65_ok _ _ ha] at h; cases h
      exact exec_opFX65_ok (s.setSt b) x ha
  | _ => cases h; rfl

end Sys2Proof.Machine
end

section
/-! PROOFS. The host's events: Tick, KeySet, DrawAck, Reset, Load and their order (R36 to R39). -/

namespace Sys2Proof.Machine

/-! ### Tick -/

/-- The lowered timer as a number (R174). -/
theorem toNat_countDown (b : Byte) : (if b = 0 then 0 else b - 1).toNat = b.toNat - 1 := by
  split
  · rename_i h; simp [h]
  · rename_i h; bv_omega

theorem agree_tick {e : Elem} (s : State) (hdt : e ≠ .dt) (hst : e ≠ .st) : agree e s s.tick := by
  cases e with
  | dt => exact absurd rfl hdt
  | st => exact absurd rfl hst
  | _ => rfl

/-- Settles O44: Tick never asks whether the core is halted. -/
theorem tickCountsDown : Obligations.TickCountsDown := fun s =>
  ⟨s.tick, rfl, toNat_countDown s.dt, toNat_countDown s.st, fun _ => agree_tick s⟩

/-! ### KeySet and DrawAck -/

theorem agree_keySet {e : Elem} (s : State) (k : Fin 16) (b : Bool) (he : e ≠ .key) :
    agree e s (s.keySet k b) := by
  cases e with
  | key => exact absurd rfl he
  | _ => rfl

theorem agree_drawAck {e : Elem} (s : State) (he : e ≠ .shouldDraw) : agree e s s.drawAck := by
  cases e with
  | shouldDraw => exact absurd rfl he
  | _ => rfl

/-- Settles O46: one key of the array, and one flag. -/
theorem keySetAndDrawAck : Obligations.KeySetAndDrawAck := by
  intro s k b
  refine ⟨⟨s.keySet k b, rfl, by simp, fun j hj => ?_, fun _ => agree_keySet s k b⟩,
    ⟨s.drawAck, rfl, rfl, fun _ => agree_drawAck s⟩⟩
  exact Vector.getElem_set_ne k.isLt j.isLt fun hkj => hj (Fin.ext hkj.symm)

/-! ### Reset -/

theorem resetEvent_memByte (s : State) (a : Nat) :
    s.resetEvent.memByte a = initialByte s.cfg.font a := rfl

theorem initialByte_font (font : Font) {a : Nat} (h : a < 80) : initialByte font a = font[a] :=
  dif_pos h

theorem initialByte_rest (font : Font) {a : Nat} (h : 80 ≤ a) : initialByte font a = 0 :=
  dif_neg (by omega)

/-- Settles O47: the elements of R36 are those of the reset state, memory reads as the configured
font, and what is no element of R36 stays (log 10). -/
theorem resetRestoresInitialValues : Obligations.ResetRestoresInitialValues := by
  intro s
  refine ⟨s.resetEvent, rfl, fun a h => (resetEvent_memByte s a).trans (initialByte_font _ h),
    fun a h _ => (resetEvent_memByte s a).trans (initialByte_rest _ h), fun x => ?_, rfl, rfl,
    fun k => ?_, rfl, fun px _ py _ => cell_blankScreen px py, fun k => ?_,
    rfl, rfl, rfl, rfl, rfl, rfl, rfl, rfl, rfl, rfl⟩
  · exact Vector.getElem_replicate x.isLt
  · exact Vector.getElem_replicate k.isLt
  · exact Vector.getElem_replicate k.isLt

/-! ### Load -/

/-- A second Reset changes nothing, so that Reset leads to a state where Load is enabled (log 9). -/
theorem resetEvent_isPostReset (s : State) : s.resetEvent.isPostReset = true :=
  decide_eq_true rfl

theorem loadEvent_ok {s : State} {rom : List Byte} (hs : s.isPostReset = true)
    (hl : rom.length ≤ maxRom) : s.loadEvent rom = .next (s.load rom).2 := by
  simp [State.loadEvent, State.load, hs, hl.not_gt]

theorem loadEvent_tooLarge {s : State} {rom : List Byte} (hs : s.isPostReset = true)
    (hl : maxRom < rom.length) : s.loadEvent rom = .refused .loadTooLarge := by
  simp [State.loadEvent, State.load, hs, hl]

/-- Settles O49: by whether the state is that after a Reset, and by the length of the image. -/
theorem loadFollowsReset : Obligations.LoadFollowsReset := by
  intro s t rom h
  cases h
  exact ⟨loadEvent_ok (resetEvent_isPostReset s), loadEvent_tooLarge (resetEvent_isPostReset s),
    loadEvent_notAfterReset⟩

/-! ### While halted, and in the order of the schedule -/

/-- Settles O9: the Step event fails with its Step, and the other events do not ask. -/
theorem haltedCoreTakesNoStep : Obligations.HaltedCoreTakesNoStep := by
  intro s r k b hs
  have hstep : applyEvent (.step r) s = .fault .stepWhileHalted := by
    have hdraw : stepCore (s.giveDraw r) = .fault .stepWhileHalted := stepCore_halted hs
    simp [applyEvent, stepWith, hdraw]
  exact ⟨stepCore_halted hs, hstep, ⟨s.tick, rfl, hs⟩, ⟨s.keySet k b, rfl, hs⟩,
    ⟨s.drawAck, rfl, hs⟩, ⟨s.resetEvent, rfl, rfl, rfl⟩⟩

/-- Settles O10: the step of a nonempty schedule is its first event, whichever it is. -/
theorem scheduledEventComesFirst : Obligations.ScheduledEventComesFirst := by
  intro s e es hs
  have hstep := step_event hs
  refine ⟨?_, ?_, ?_, ?_, ?_, ?_⟩
  · rintro rfl; exact hstep
  · rintro k b rfl; exact hstep
  · rintro rfl; exact hstep
  · rintro rfl; exact hstep
  · rintro rom rfl; exact hstep
  · rintro r rfl; exact hstep

end Sys2Proof.Machine
end

section
/-! PROOFS. Memory and the fetch: what is written is what is read, and what is fetched is what runs
(R48, R50, R52, R59, R82). -/

namespace Sys2Proof.Machine

/-! ### Bytes of memory (R52) -/

/-- Settles O32: a store writes the byte of its own address, of the font table or not (D20). -/
theorem memoryReadsLastWrite : Obligations.MemoryReadsLastWrite := fun s a b =>
  ⟨memByte_setMemByte_same s a b, fun _ hc => memByte_setMemByte_ne s hc b⟩

/-- The bytes of memory are those of the memory field and of the configured font alone. -/
theorem memByte_eq_of_mem {s t : State} (hm : s.mem = t.mem) (hc : s.cfg = t.cfg) (p : Nat) :
    s.memByte p = t.memByte p := by
  simp [State.memByte, hm, hc]

/-- Each register up to V[x] is the byte that FX55 leaves at its address (R145). -/
theorem memByte_exec_opFX55 {s t : State} {x k : Reg} (hr : InRange s (x.val + 1))
    (h : exec (.opFX55 x) s = .next t) (hk : k.val ≤ x.val) :
    t.memByte ((s.i.toNat + k.val) % 4096) = s.getV k := by
  rw [exec_opFX55_ok s x (addrRange_of_inRange s hr)] at h
  cases h
  have hlen : k.val < (s.regBlock x).length := by rw [regBlock_length]; omega
  calc _ = (s.regBlock x)[k.val] :=
        memByte_blockStore s s.i.toNat (x.val + 1) (s.regBlock x) (regBlock_length s x)
          (by omega) k.val hlen
    _ = s.getV k := getElem_regBlock s x hlen

/-! ### The fetch (R48, R50) -/

/-- Where neither address faults, the fetch reads at the low 12 bits of pc and of pc + 1. -/
theorem fetchWord_inRange {s : State} (h : s.cfg.addrPolicy = .wrap12 ∨ s.pc.toNat + 1 ≤ 0xFFF) :
    s.fetchWord =
      .ok (wordOfBytes (s.memByte (s.pc.toNat % 4096)) (s.memByte ((s.pc.toNat + 1) % 4096))) :=
  fetchWord_eq (addr_ok (h.imp_right (by omega))) (addr_ok h)

/-- Settles O33: the two addresses of the fetch are those of V[j] and V[j + 1] in the block, and both
are in range because the block is. -/
theorem storedBytesAreFetched : Obligations.StoredBytesAreFetched := by
  intro x j s t u hr h hj hm hc hpc
  obtain ⟨k, hk⟩ : ∃ k : Reg, k.val = j.val + 1 := ⟨⟨j.val + 1, by omega⟩, rfl⟩
  have hpc' : u.pc.toNat + 1 = s.i.toNat + k.val := by omega
  have hrange : u.cfg.addrPolicy = .wrap12 ∨ u.pc.toNat + 1 ≤ 0xFFF := by
    rw [hc, exec_cfg h]
    exact hr.imp_right (by omega)
  refine ⟨k, hk, ?_⟩
  rw [fetchWord_inRange hrange, hpc', hpc, memByte_eq_of_mem hm hc, memByte_eq_of_mem hm hc,
    memByte_exec_opFX55 hr h (by omega : j.val ≤ x.val),
    memByte_exec_opFX55 hr h (by omega : k.val ≤ x.val)]

/-- The fetch reads a placed word, at every pc: its two addresses are distinct, also where the word
wraps to address 0 (log 15). -/
theorem fetchWord_withFetchWord {s : State} (h : s.cfg.addrPolicy = .wrap12) (nbits w : Nat) :
    (s.withFetchWord nbits w).fetchWord = .ok (tableWord nbits w) := by
  have hne : s.pc.toNat % 4096 ≠ (s.pc.toNat + 1) % 4096 := by omega
  have hhigh : (s.withFetchWord nbits w).memByte (s.pc.toNat % 4096) =
      highByte (tableWord nbits w) :=
    (memByte_setMemByte_ne _ hne _).trans (memByte_setMemByte_same s _ _)
  have hlow : (s.withFetchWord nbits w).memByte ((s.pc.toNat + 1) % 4096) =
      lowByte (tableWord nbits w) := memByte_setMemByte_same _ _ _
  have hfetch := fetchWord_inRange (s := s.withFetchWord nbits w) (.inl h)
  exact hfetch.trans (congrArg Except.ok
    ((congrArg₂ wordOfBytes hhigh hlow).trans (wordOfBytes_bytes _)))

/-! ### The instruction that runs (R82) -/

/-- Settles O11: the step has nothing scheduled and fetches the placed word. -/
theorem placedWordRunsNext : Obligations.PlacedWordRunsNext := by
  intro s w i hrun hwrap hdec
  have hcore : stepCore (s.withFetchWord 16 w) = exec i (s.withFetchWord 16 w) :=
    stepCore_exec hrun (fetchWord_withFetchWord hwrap 16 w) (decodeTableWord_eq_some.1 hdec)
  exact (step_core rfl).trans hcore

/-- Every instruction answers a next state: a fatal fault is one too (R180; log 8). -/
theorem exec_completes (i : Instr) (s : State) : ∃ t, exec i s = .next t := by
  cases i with
  | op00EE m =>
    by_cases hs : s.sp.val = 0
    · exact ⟨_, exec_op00EE_underflow s m hs⟩
    · exact ⟨_, exec_op00EE_ok s m (Nat.pos_of_ne_zero hs)⟩
  | op2NNN nnn =>
    by_cases hs : s.sp.val = 16
    · exact ⟨_, exec_op2NNN_overflow s nnn hs⟩
    · exact ⟨_, exec_op2NNN_ok s nnn (by omega)⟩
  | opDXYN x y n =>
    cases ha : addrRange s.cfg s.indexAddr n with
    | error bad => exact ⟨_, exec_opDXYN_fault s x y ha⟩
    | ok as => exact ⟨_, exec_opDXYN_ok s x y ha⟩
  | opEX9E x =>
    cases hk : keyIndex s.cfg (s.getV x) with
    | none => exact ⟨_, exec_opEX9E_fault s x hk⟩
    | some k => exact ⟨_, exec_opEX9E_ok s x hk⟩
  | opEXA1 x =>
    cases hk : keyIndex s.cfg (s.getV x) with
    | none => exact ⟨_, exec_opEXA1_fault s x hk⟩
    | some k => exact ⟨_, exec_opEXA1_ok s x hk⟩
  | opFX0A x =>
    cases hk : s.firstPressed with
    | none => exact ⟨_, exec_opFX0A_waiting s x hk⟩
    | some k => exact ⟨_, exec_opFX0A_pressed s x hk⟩
  | opFX33 x =>
    cases ha : addrRange s.cfg s.indexAddr 3 with
    | error bad => exact ⟨_, exec_opFX33_fault s x ha⟩
    | ok as => exact ⟨_, exec_opFX33_ok s x ha⟩
  | opFX55 x =>
    cases ha : addrRange s.cfg s.indexAddr (x.val + 1) with
    | error bad => exact ⟨_, exec_opFX55_fault s x ha⟩
    | ok as => exact ⟨_, exec_opFX55_ok s x ha⟩
  | opFX65 x =>
    cases ha : addrRange s.cfg s.indexAddr (x.val + 1) with
    | error bad => exact ⟨_, exec_opFX65_fault s x ha⟩
    | ok as => exact ⟨_, exec_opFX65_ok s x ha⟩
  | _ => exact ⟨_, rfl⟩

/-- Settles O6: the fetch reads the big-endian pair with or without a draw, so that either Step is
exec of its instruction; and exec answers a state for the event to drop the draw of. -/
theorem stepRunsDecodedInstruction : Obligations.StepRunsDecodedInstruction := by
  intro s a b i hrun ha hb hdec
  have hfetch : s.fetchWord = .ok (wordOfBytes (s.memByte a) (s.memByte b)) := fetchWord_eq ha hb
  refine ⟨fun r => ?_, fun hsched => (step_core hsched).trans (stepCore_exec hrun hfetch hdec)⟩
  obtain ⟨t, ht⟩ := exec_completes i (s.giveDraw r)
  have hcore : stepCore (s.giveDraw r) = exec i (s.giveDraw r) :=
    stepCore_exec hrun ((fetchWord_giveDraw s r).trans hfetch) hdec
  exact ⟨t, ht, applyEvent_step (hcore.trans ht)⟩

end Sys2Proof.Machine
end

section
/-! PROOFS. Decoding and encoding undo each other, and the words with no handler are the four
classes of R78 (R66, R67, R72, R74, R75). -/

namespace Sys2Proof

/-! ### The registers that the encoder's layouts select (R68) -/

section layouts

variable (op x y n : Nibble) (nn : Byte) (r : Reg)

@[simp] theorem regX_wordXYN : regX (wordXYN op (regField r) y n) = r := by simp [regX]

@[simp] theorem regY_wordXYN : regY (wordXYN op x (regField r) n) = r := by simp [regY]

@[simp] theorem regX_wordXNN : regX (wordXNN op (regField r) nn) = r := by simp [regX]

end layouts

/-! ### Decode after encode -/

/-- Either table finds its key in the field where the layout put it; the row count of DXYN survives
its 4-bit field because it is below 16 (R66, R68). -/
theorem decodeWord_encode {i : Instr} (hi : i.wellFormed = true) :
    decodeWord (encode i) = .ok i := by
  cases i with
  | opDXYN x y n =>
    have hn : n % 16 = n := Nat.mod_eq_of_lt (of_decide_eq_true hi)
    simp [encode, decodeWord, hn]
  | op8XY0 | op8XY1 | op8XY2 | op8XY3 | op8XY4 | op8XY5 | op8XY6 | op8XY7 | op8XYE =>
    simp [encode, decodeWord, decodeCategory8]
  | op00E0 | op00EE => simp [encode, decodeWord, decodeCategory0]
  | opEX9E | opEXA1 => simp [encode, decodeWord, decodeCategoryE]
  | opFX07 | opFX0A | opFX15 | opFX18 | opFX1E | opFX29 | opFX33 | opFX55 | opFX65 =>
    simp [encode, decodeWord, decodeCategoryF]
  | _ => simp [encode, decodeWord]

/-- Settles O1, by the round trip of each layout's fields. -/
theorem decodeOfEncodeGivesInstruction : Obligations.DecodeOfEncodeGivesInstruction :=
  fun _ hi => decodeWord_encode hi

/-! ### A word is its fields, in each layout (R66) -/

theorem wordXYN_of_fields {w : Word} {op n : Nibble} (hop : fieldOp w = op) (hn : fieldN w = n) :
    wordXYN op (fieldX w) (fieldY w) n = w := by
  subst hop hn
  apply BitVec.eq_of_toNat_eq
  rw [wordXYN_toNat, fieldOp_toNat, fieldX_toNat, fieldY_toNat, fieldN_toNat]; omega

theorem wordXNN_of_fields {w : Word} {op : Nibble} {nn : Byte} (hop : fieldOp w = op)
    (hnn : fieldNn w = nn) : wordXNN op (fieldX w) nn = w := by
  subst hop hnn
  apply BitVec.eq_of_toNat_eq
  rw [wordXNN_toNat, fieldOp_toNat, fieldX_toNat, fieldNn_toNat]; omega

theorem wordNNN_of_fields {w : Word} {op : Nibble} (hop : fieldOp w = op) :
    wordNNN op (fieldNnn w) = w := by
  subst hop
  apply BitVec.eq_of_toNat_eq
  rw [wordNNN_toNat, fieldOp_toNat, fieldNnn_toNat]; omega

/-! ### Encode after decode -/

theorem encode_of_decodeCategory0 {w : Word} {i : Instr} (hop : fieldOp w = 0x0)
    (h : decodeCategory0 w = .ok i) : encode i = w ∧ i.wellFormed = true := by
  unfold decodeCategory0 at h
  split_ifs at h with hnn hnn <;> cases h <;> exact ⟨wordXNN_of_fields hop hnn, rfl⟩

theorem encode_of_decodeCategory8 {w : Word} {i : Instr} (hop : fieldOp w = 0x8)
    (h : decodeCategory8 w = .ok i) : encode i = w ∧ i.wellFormed = true := by
  unfold decodeCategory8 at h
  split at h <;> cases h <;>
    exact ⟨wordXYN_of_fields hop (BitVec.eq_of_toNat_eq ‹_›), rfl⟩

theorem encode_of_decodeCategoryE {w : Word} {i : Instr} (hop : fieldOp w = 0xE)
    (h : decodeCategoryE w = .ok i) : encode i = w ∧ i.wellFormed = true := by
  unfold decodeCategoryE at h
  split_ifs at h with hnn hnn <;> cases h <;> exact ⟨wordXNN_of_fields hop hnn, rfl⟩

theorem encode_of_decodeCategoryF {w : Word} {i : Instr} (hop : fieldOp w = 0xF)
    (h : decodeCategoryF w = .ok i) : encode i = w ∧ i.wellFormed = true := by
  unfold decodeCategoryF at h
  split_ifs at h with hnn hnn hnn hnn hnn hnn hnn hnn hnn <;> cases h <;>
    exact ⟨wordXNN_of_fields hop hnn, rfl⟩

/-- Settles O2: the first table fixes `op`, the second the key of its category, and each layout is
all the fields of the word. -/
theorem encodeOfDecodeGivesWord : Obligations.EncodeOfDecodeGivesWord := by
  intro w i h
  unfold decodeWord at h
  split at h
  -- `split` counts from 1: the case `h_k` has `op = k - 1`, and `h_16` is the default arm
  case h_1 hop => exact encode_of_decodeCategory0 (BitVec.eq_of_toNat_eq hop) h
  case h_9 hop => exact encode_of_decodeCategory8 (BitVec.eq_of_toNat_eq hop) h
  case h_15 hop => exact encode_of_decodeCategoryE (BitVec.eq_of_toNat_eq hop) h
  case h_16 =>
    have hop : (fieldOp w).toNat = 15 := by
      have := (fieldOp w).isLt
      simp only [imp_false] at *
      omega
    exact encode_of_decodeCategoryF (BitVec.eq_of_toNat_eq hop) h
  case h_14 hop =>
    cases h
    have hn : BitVec.ofNat 4 (fieldN w).toNat = fieldN w := by simp
    exact ⟨wordXYN_of_fields (BitVec.eq_of_toNat_eq hop) hn.symm, decide_eq_true (fieldN w).isLt⟩
  case h_2 hop | h_3 hop | h_11 hop | h_12 hop =>
    cases h; exact ⟨wordNNN_of_fields (BitVec.eq_of_toNat_eq hop), rfl⟩
  case h_4 hop | h_5 hop | h_7 hop | h_8 hop | h_13 hop =>
    cases h; exact ⟨wordXNN_of_fields (BitVec.eq_of_toNat_eq hop) rfl, rfl⟩
  case h_6 hop | h_10 hop =>
    cases h; exact ⟨wordXYN_of_fields (BitVec.eq_of_toNat_eq hop) rfl, rfl⟩

/-! ### The words with no handler (R78) -/

theorem fieldNn_eq_iff (w : Word) (nn : Byte) : fieldNn w = nn ↔ w.toNat % 256 = nn.toNat := by
  rw [← BitVec.toNat_inj, fieldNn_toNat]

theorem decodeCategory0_error_iff (w : Word) :
    (∃ e, decodeCategory0 w = .error e) ↔ w.toNat % 256 ∉ [0xE0, 0xEE] := by
  unfold decodeCategory0
  split_ifs <;> simp_all [fieldNn_eq_iff]

theorem decodeCategory8_error_iff (w : Word) :
    (∃ e, decodeCategory8 w = .error e) ↔
      w.toNat % 16 ∈ [0x8, 0x9, 0xA, 0xB, 0xC, 0xD, 0xF] := by
  unfold decodeCategory8
  rw [fieldN_toNat]
  have hn : w.toNat % 16 < 16 := Nat.mod_lt _ (by decide)
  interval_cases w.toNat % 16 <;> simp

theorem decodeCategoryE_error_iff (w : Word) :
    (∃ e, decodeCategoryE w = .error e) ↔ w.toNat % 256 ∉ [0x9E, 0xA1] := by
  unfold decodeCategoryE
  split_ifs <;> simp_all [fieldNn_eq_iff]

theorem decodeCategoryF_error_iff (w : Word) :
    (∃ e, decodeCategoryF w = .error e) ↔
      w.toNat % 256 ∉ [0x07, 0x0A, 0x15, 0x18, 0x1E, 0x29, 0x33, 0x55, 0x65] := by
  unfold decodeCategoryF
  split_ifs <;> simp_all [fieldNn_eq_iff]

/-- Settles O3: only the four categories with a second table can leave a word without a handler. -/
theorem unknownWordsAreTheFourClasses : Obligations.UnknownWordsAreTheFourClasses := by
  intro w
  have hop : w.toNat / 4096 < 16 := by have := w.isLt; omega
  unfold decodeWord
  rw [fieldOp_toNat]
  interval_cases w.toNat / 4096 <;>
    simp [decodeCategory0_error_iff, decodeCategory8_error_iff, decodeCategoryE_error_iff,
      decodeCategoryF_error_iff]

/-- Settles O4: each word is a closed term, and the decoder computes its instruction. -/
theorem sampleWordsDecode : Obligations.SampleWordsDecode := by
  unfold Obligations.SampleWordsDecode; decide

end Sys2Proof
end

section
/-! PROOFS. Every Step of a running core completes, and ignored bits change nothing (R70, R71, R85,
R180; log 7, 8, 12). -/

namespace Sys2Proof.Machine

/-- A Step that is enabled answers a next state on each of its three ways: the fetch faults, the
word is UNKNOWN, or its instruction runs (R190). -/
theorem stepCore_completes {s : State} (hrun : s.running) : ∃ t, stepCore s = .next t := by
  cases hf : s.fetchWord with
  | error bad => exact ⟨_, stepCore_fetchFault hrun hf⟩
  | ok w =>
    cases hd : decodeWord w with
    | error e => exact ⟨_, stepCore_unknown hrun hf hd⟩
    | ok i =>
      obtain ⟨t, ht⟩ := exec_completes i s
      exact ⟨t, (stepCore_exec hrun hf hd).trans ht⟩

/-- Settles O12: a draw does not halt the core, so that the event's Step is enabled too. -/
theorem everyStepCompletes : Obligations.EveryStepCompletes := by
  refine ⟨exec_completes, fun s r hrun => ?_, fun s ⟨hsched, hrun⟩ => ?_⟩
  · obtain ⟨t, ht⟩ := stepCore_completes (s := s.giveDraw r) hrun
    exact ⟨t.endDraw, applyEvent_step ht⟩
  · obtain ⟨t, ht⟩ := stepCore_completes hrun
    exact ⟨t, (step_core hsched).trans ht⟩

/-- Settles O5: no equation of exec reads the ignored bits; that of 00EE is the one without
underflow, whose record would hold them. -/
theorem ignoredBitsChangeNothing : Obligations.IgnoredBitsChangeNothing := by
  intro x y z m n s
  refine ⟨?_, ?_, ?_, ?_, ?_, fun hsp => ?_⟩
  · rw [exec_op00E0, exec_op00E0]
  · rw [exec_op5XY0, exec_op5XY0]
  · rw [exec_op9XY0, exec_op9XY0]
  · rw [exec_op8XY6, exec_op8XY6]
  · rw [exec_op8XYE, exec_op8XYE]
  · have hactive : 0 < s.sp.val := Nat.pos_of_ne_zero fun h => hsp (Fin.ext h)
    rw [exec_op00EE_ok s m hactive, exec_op00EE_ok s n hactive]

end Sys2Proof.Machine
end

section
/-! PROOFS. Jumps, calls and returns, one instruction each (R101 to R104, R186, R187). -/

namespace Sys2Proof.Machine

/-- An instruction has the number `n` as its word when the encoder gives that word (R67, R72). -/
theorem encodedAs_of_encode {i : Instr} {n : Nat} (hi : i.wellFormed = true)
    (h : encode i = BitVec.ofNat 16 n) : EncodedAs i n :=
  (congrArg decodeWord h).symm.trans (decodeWord_encode hi)

theorem encode_op2NNN (nnn : Addr12) :
    encode (.op2NNN nnn) = BitVec.ofNat 16 (0x2000 + nnn.toNat) := rfl

theorem encode_op00EE (x : Nibble) :
    encode (.op00EE x) = BitVec.ofNat 16 (0x00EE + 256 * x.toNat) := by
  apply BitVec.eq_of_toNat_eq
  rw [encode, wordXNN_toNat]
  bv_omega

@[simp] theorem zext16_toNat (nnn : Addr12) : (zext16 nnn).toNat = nnn.toNat :=
  BitVec.toNat_setWidth_of_le (by decide)

/-- `nnn + V0` is at most 0xFFF + 0xFF, so the 16-bit sum does not wrap (R104). -/
theorem zext16_add_toNat (nnn : Addr12) (b : Byte) :
    (zext16 nnn + b.setWidth 16).toNat = nnn.toNat + b.toNat := by
  have := nnn.isLt
  have := b.isLt
  rw [BitVec.toNat_add, zext16_toNat, BitVec.toNat_setWidth]
  omega

/-- Settles O13: both jumps write pc alone, each to its target as a number. -/
theorem jumpsSetPc : Obligations.JumpsSetPc := by
  intro nnn s
  have hjump := exec_op1NNN s nnn
  have hoffset := exec_opBNNN s nnn
  exact ⟨encodedAs_of_encode rfl rfl, encodedAs_of_encode rfl rfl,
    ⟨_, hjump, exec_onlyWrites hjump rfl, zext16_toNat nnn⟩,
    ⟨_, hoffset, exec_onlyWrites hoffset rfl, zext16_add_toNat nnn (s.getV 0)⟩⟩

/-- Settles O14: by the equation of the call that completes, and by that of the overflow. -/
theorem callPushesOwnAddress : Obligations.CallPushesOwnAddress := by
  intro nnn s
  refine ⟨encodedAs_of_encode rfl (encode_op2NNN nnn), fun hs => ?_, fun hs => ?_⟩
  · have h := exec_op2NNN_ok s nnn hs
    exact ⟨_, h, exec_onlyWrites h rfl, Vector.getElem_set_self hs, rfl, zext16_toNat nnn⟩
  · rw [← encode_op2NNN]
    exact ⟨_, exec_op2NNN_overflow s nnn hs, raiseFault_faultTaken s _ _ _⟩

/-- Settles O15: by the equation of the return that completes, and by that of the underflow. -/
theorem returnPopsAddress : Obligations.ReturnPopsAddress := by
  intro x s
  refine ⟨encodedAs_of_encode rfl (encode_op00EE x), fun hs => ?_, fun hs => ?_⟩
  · have h := exec_op00EE_ok s x hs
    exact ⟨_, h, exec_onlyWrites h rfl, rfl, rfl⟩
  · rw [← encode_op00EE]
    exact ⟨_, exec_op00EE_underflow s x hs, raiseFault_faultTaken s _ _ _⟩

end Sys2Proof.Machine
end

section
/-! PROOFS. The call/return law: an active stack entry keeps its value until a return or a Reset takes
it off the stack (R26, R101, R103, R105). -/

namespace Sys2Proof.Machine

/-! ### What keeps an active entry -/

/-- The only stack entry an instruction writes is the one at sp, which is not active (R103). -/
theorem writesElem_stackEntry {i : Instr} {s : State} {k : Fin 16}
    (h : writesElem i s (.stackEntry k)) : k.val = s.sp.val := by
  cases i with
  | op2NNN nnn => simpa [writesElem, eq_comm] using h
  | _ => simp [writesElem] at h

/-- A return keeps its entry too: by the frame, it writes sp and pc alone (R101). -/
theorem exec_keeps_activeEntry {i : Instr} {s t : State} {k : Fin 16} (h : exec i s = .next t)
    (hk : k.val < s.sp.val) : t.stack[k.val] = s.stack[k.val] := by
  obtain ⟨c, w, info, -, rfl⟩ | hq := exec_cases h
  · rfl
  · exact exec_onlyWrites h hq.errOut (.stackEntry k) fun hw => hk.ne (writesElem_stackEntry hw)

theorem stepCore_keeps_activeEntry {s t : State} {k : Fin 16} (h : stepCore s = .next t)
    (hk : k.val < s.sp.val) : t.stack[k.val] = s.stack[k.val] := by
  obtain ⟨-, ⟨bad, -, rfl⟩ | ⟨w, e, -, -, rfl⟩ | ⟨w, i, -, -, hi⟩⟩ := stepCore_cases h
  · rfl
  · rfl
  · exact exec_keeps_activeEntry hi hk

@[simp] theorem State.placeBytes_stack (s : State) (a : Nat) (bs : List Byte) :
    (s.placeBytes a bs).stack = s.stack := by rw [placeBytes_eq]

/-- An entry that is active before and after a host event keeps its value: Reset, the one event other
than Step that writes the stack, leaves no entry active (R36). -/
theorem applyEvent_keeps_activeEntry {e : Event} {s t : State} {k : Fin 16}
    (h : applyEvent e s = .next t) (hs : k.val < s.sp.val) (ht : k.val < t.sp.val) :
    t.stack[k.val] = s.stack[k.val] := by
  cases e with
  | reset => cases h; exact absurd ht (Nat.not_lt_zero _)
  | load rom =>
    obtain ⟨-, -, rfl⟩ := loadEvent_cases h
    simp
  | step r =>
    obtain ⟨u, hu, rfl⟩ := stepWith_cases h
    have hkept := stepCore_keeps_activeEntry hu hs
    exact hkept
  | tick | keySet k pressed | drawAck => cases h; rfl

theorem step_keeps_activeEntry {s t : State} {k : Fin 16} (h : step s = .next t)
    (hs : k.val < s.sp.val) (ht : k.val < t.sp.val) : t.stack[k.val] = s.stack[k.val] := by
  obtain ⟨-, h⟩ | ⟨e, es, -, h⟩ := step_cases h
  · exact stepCore_keeps_activeEntry h hs
  · exact applyEvent_keeps_activeEntry (s := s.withSchedule es) h hs ht

/-! ### Runs above a depth -/

theorem RunAbove.lt_sp {d : Nat} {s t : State} (h : RunAbove d s t) : d < t.sp.val := by
  cases h <;> assumption

/-- Along a run that stays above depth `k`, entry `k` is active in every state, so each step keeps
it. -/
theorem RunAbove.stackEntry {k : Fin 16} {s t : State} (h : RunAbove k.val s t) :
    t.stack[k.val] = s.stack[k.val] := by
  induction h with
  | refl _ => rfl
  | step hrun hstep hu ih => exact (step_keeps_activeEntry hstep hrun.lt_sp hu).trans ih

/-- Settles O16: the call saves its address in the entry at its sp, the run keeps that entry, and the
return pops it. -/
theorem callReturnLaw : Obligations.CallReturnLaw := by
  intro nnn x s t u hs hcall hrun hdepth
  obtain ⟨-, hpush, -⟩ := callPushesOwnAddress nnn s
  obtain ⟨t', ht', -, hsaved, -, -⟩ := hpush hs
  obtain rfl : t' = t := Host.Outcome.next.inj (ht'.symm.trans hcall)
  have hkept : u.stack[s.sp.val] = s.pc := (RunAbove.stackEntry (k := ⟨_, hs⟩) hrun).trans hsaved
  obtain ⟨-, hpop, -⟩ := returnPopsAddress x u
  obtain ⟨v, hv, -, hsp, hpc⟩ := hpop hrun.lt_sp.pos
  have htop : u.sp.val - 1 = s.sp.val := by omega
  exact ⟨v, hv, by simpa only [htop, hkept] using hpc, Fin.ext (hsp.trans htop)⟩

end Sys2Proof.Machine
end

section
/-! PROOFS. Conditional skips: each skip moves pc alone, and a key skip faults exactly where `KeyIdx`
names no key (R110 to R117, R189). -/

namespace Sys2Proof.Machine

/-! ### The words of the skips (R66, R72) -/

theorem wordXNN_regField (op : Nibble) (r : Reg) (nn : Byte) :
    wordXNN op (regField r) nn = BitVec.ofNat 16 (op.toNat * 4096 + 256 * r.val + nn.toNat) := by
  rw [wordXNN, regField_toNat, Nat.mul_comm r.val]

theorem wordXYN_regField (op : Nibble) (r q : Reg) (n : Nibble) :
    wordXYN op (regField r) (regField q) n =
      BitVec.ofNat 16 (op.toNat * 4096 + 256 * r.val + 16 * q.val + n.toNat) := by
  rw [wordXYN, regField_toNat, regField_toNat, Nat.mul_comm r.val, Nat.mul_comm q.val]

theorem encode_opEX9E (x : Reg) :
    encode (.opEX9E x) = BitVec.ofNat 16 (0xE09E + 256 * x.val) := by
  rw [encode, wordXNN_regField, Nat.add_right_comm]; rfl

theorem encode_opEXA1 (x : Reg) :
    encode (.opEXA1 x) = BitVec.ofNat 16 (0xE0A1 + 256 * x.val) := by
  rw [encode, wordXNN_regField, Nat.add_right_comm]; rfl

/-! ### What a skip does (R110) -/

/-- An instruction that answers with `advance(k)` moves pc by `k` and keeps its frame. -/
theorem exec_advance_frame {i : Instr} {s : State} {k : Word} (h : exec i s = .next (s.advance k)) :
    ∃ t, exec i s = .next t ∧ OnlyWrites i s t ∧ t.pc = s.pc + k :=
  ⟨_, h, exec_onlyWrites h rfl, rfl⟩

/-- Settles O17: by the layout of each word, and by the equation of each skip. -/
theorem registerSkipsCompare : Obligations.RegisterSkipsCompare := by
  intro x y nn n s
  exact ⟨encodedAs_of_encode rfl (wordXNN_regField 0x3 x nn),
    encodedAs_of_encode rfl (wordXNN_regField 0x4 x nn),
    encodedAs_of_encode rfl (wordXYN_regField 0x5 x y n),
    encodedAs_of_encode rfl (wordXYN_regField 0x9 x y n),
    exec_advance_frame (exec_op3XNN s x nn), exec_advance_frame (exec_op4XNN s x nn),
    exec_advance_frame (exec_op5XY0 s x y n), exec_advance_frame (exec_op9XY0 s x y n)⟩

/-- Settles O18: under the premise `KeyIdx` names key `k`, whose level decides both skips. -/
theorem keySkipsTestKey : Obligations.KeySkipsTestKey := by
  intro x k s
  refine ⟨encodedAs_of_encode rfl (encode_opEX9E x), encodedAs_of_encode rfl (encode_opEXA1 x),
    fun hindex hk => ?_⟩
  have hkey : keyIndex s.cfg (s.getV x) = some k := keyIndex_eq_some.2 ⟨hindex, hk⟩
  exact ⟨exec_advance_frame (exec_opEX9E_ok s x hkey), exec_advance_frame (exec_opEXA1_ok s x hkey)⟩

/-! ### The key index out of range (R117) -/

theorem keyIndex_eq_none {cfg : Config} {b : Byte} :
    keyIndex cfg b = none ↔ cfg.keyIndexPolicy = .fault ∧ 0xF < b.toNat := by
  unfold keyIndex
  split
  next hle => simp [Nat.not_lt.2 hle]
  next hgt =>
    have hrange : 0xF < b.toNat := Nat.lt_of_not_le hgt
    cases cfg.keyIndexPolicy <;> simp [hrange]

/-- Settles O19: `KeyIdx` names no key, and either skip answers with the fault that carries its
word. -/
theorem keyIndexOutOfRangeFaults : Obligations.KeyIndexOutOfRangeFaults := by
  intro x s hpolicy hrange
  have hkey : keyIndex s.cfg (s.getV x) = none := keyIndex_eq_none.2 ⟨hpolicy, hrange⟩
  rw [← encode_opEX9E, ← encode_opEXA1]
  exact ⟨⟨_, exec_opEX9E_fault s x hkey, raiseFault_faultTaken s _ _ _⟩,
    ⟨_, exec_opEXA1_fault s x hkey, raiseFault_faultTaken s _ _ _⟩⟩

end Sys2Proof.Machine
end

section
/-! PROOFS. The register ALU: results as numbers or bit by bit, and the flag, which is the last
write (R120 to R133). -/

namespace Sys2Proof.Machine

/-! ### The words of category 8 (R66, R74) -/

theorem wordXYN_category8 (x y : Reg) (n : Nibble) :
    wordXYN 0x8 (regField x) (regField y) n =
      BitVec.ofNat 16 (0x8000 + n.toNat + 256 * x.val + 16 * y.val) := by
  rw [wordXYN_regField, Nat.add_right_comm, Nat.add_right_comm _ (256 * x.val)]
  rfl

/-! ### Flags as numbers (R127 to R131) -/

theorem flagByte_carryFlag (a b : Byte) :
    flagByte (carryFlag a b) = if a.toNat + b.toNat > 255 then 1 else 0 := by
  simp [flagByte, carryFlag]

theorem flagByte_noBorrowFlag (a b : Byte) :
    flagByte (noBorrowFlag a b) = if b.toNat ≤ a.toNat then 1 else 0 := by
  simp [flagByte, noBorrowFlag]

theorem flagByte_toNat (f : Bool) : (flagByte f).toNat = f.toNat := by cases f <;> rfl

theorem flagByte_shiftedOutRight_toNat (a : Byte) :
    (flagByte (shiftedOutRight a)).toNat = a.toNat % 2 := by
  rw [flagByte_toNat, shiftedOutRight, BitVec.getLsbD, Nat.toNat_testBit, pow_zero, Nat.div_one]

/-- Bit 7 is the top bit of a byte, so the quotient is already a bit. -/
theorem flagByte_shiftedOutLeft_toNat (a : Byte) :
    (flagByte (shiftedOutLeft a)).toNat = a.toNat / 128 := by
  have := a.isLt
  rw [flagByte_toNat, shiftedOutLeft, BitVec.getLsbD, Nat.toNat_testBit]
  omega

/-! ### Results as numbers (R128 to R131) -/

theorem sub_toNat_int (a b : Byte) :
    ((a - b).toNat : Int) = ((a.toNat : Int) - (b.toNat : Int)) % 256 := by
  have := b.isLt
  rw [BitVec.toNat_sub]
  omega

theorem ushiftRight_one_toNat (a : Byte) : (a >>> 1).toNat = a.toNat / 2 := by
  rw [BitVec.toNat_ushiftRight, Nat.shiftRight_eq_div_pow, pow_one]

theorem shiftLeft_one_toNat (a : Byte) : (a <<< 1).toNat = a.toNat * 2 % 256 := by
  rw [BitVec.toNat_shiftLeft, Nat.shiftLeft_eq, pow_one]

/-! ### What the two templates leave behind (R120) -/

/-- An instruction of the template without a flag: its result, pc and frame. -/
theorem exec_aluWrite_frame {i : Instr} {s : State} {x : Reg} {b : Byte}
    (h : exec i s = .next (s.aluWrite x b)) :
    ∃ t, exec i s = .next t ∧ OnlyWrites i s t ∧ t.getV x = b ∧ t.pc = s.pc + 2 :=
  ⟨_, h, exec_onlyWrites h rfl, getV_aluWrite_same s x b, rfl⟩

/-- An instruction of the template with a flag: its result where the flag does not overwrite it, the
flag, pc and frame. -/
theorem exec_aluWriteFlag_frame {i : Instr} {s : State} {x : Reg} {b : Byte} {f : Bool}
    (h : exec i s = .next (s.aluWriteFlag x b f)) :
    ∃ t, exec i s = .next t ∧ OnlyWrites i s t ∧ t.pc = s.pc + 2 ∧
      (x ≠ regF → t.getV x = b) ∧ t.getV regF = flagByte f :=
  ⟨_, h, exec_onlyWrites h rfl, rfl, fun hx => getV_aluWriteFlag_result s x hx b f,
    getV_aluWriteFlag_flag s x b f⟩

/-! ### Loads, copies and bitwise operations (R121 to R126) -/

/-- Settles O20: both instances of the template without a flag, the sum as a number. -/
theorem immediateLoadAndAdd : Obligations.ImmediateLoadAndAdd := by
  intro x nn s
  obtain ⟨t, hexec, hframe, hx, hpc⟩ := exec_aluWrite_frame (exec_op7XNN s x nn)
  exact ⟨encodedAs_of_encode rfl (wordXNN_regField 0x6 x nn),
    encodedAs_of_encode rfl (wordXNN_regField 0x7 x nn),
    exec_aluWrite_frame (exec_op6XNN s x nn),
    t, hexec, hframe, hx ▸ BitVec.toNat_add _ _, hpc⟩

/-- Settles O21: four instances of the template without a flag, the last three read bit by bit. -/
theorem copyAndBitwise : Obligations.CopyAndBitwise := by
  intro x y s
  obtain ⟨t₁, hexec₁, hframe₁, hx₁, hpc₁⟩ := exec_aluWrite_frame (exec_op8XY1 s x y)
  obtain ⟨t₂, hexec₂, hframe₂, hx₂, hpc₂⟩ := exec_aluWrite_frame (exec_op8XY2 s x y)
  obtain ⟨t₃, hexec₃, hframe₃, hx₃, hpc₃⟩ := exec_aluWrite_frame (exec_op8XY3 s x y)
  exact ⟨encodedAs_of_encode rfl (wordXYN_category8 x y 0x0),
    encodedAs_of_encode rfl (wordXYN_category8 x y 0x1),
    encodedAs_of_encode rfl (wordXYN_category8 x y 0x2),
    encodedAs_of_encode rfl (wordXYN_category8 x y 0x3),
    exec_aluWrite_frame (exec_op8XY0 s x y),
    ⟨t₁, hexec₁, hframe₁, hpc₁, fun _ _ => hx₁ ▸ BitVec.getLsbD_or⟩,
    ⟨t₂, hexec₂, hframe₂, hpc₂, fun _ _ => hx₂ ▸ BitVec.getLsbD_and⟩,
    ⟨t₃, hexec₃, hframe₃, hpc₃, fun _ _ => hx₃ ▸ BitVec.getLsbD_xor⟩⟩

/-! ### Arithmetic and shifts with a flag (R127 to R131, R133) -/

/-- Settles O22: the template with a flag, the sum and the carry as numbers. -/
theorem addWritesSumThenCarry : Obligations.AddWritesSumThenCarry := by
  intro x y s
  obtain ⟨t, hexec, hframe, hpc, hx, hf⟩ := exec_aluWriteFlag_frame (exec_op8XY4 s x y)
  exact ⟨encodedAs_of_encode rfl (wordXYN_category8 x y 0x4), t, hexec, hframe, hpc,
    fun hne => hx hne ▸ BitVec.toNat_add _ _, hf.trans (flagByte_carryFlag _ _)⟩

/-- Settles O23: the template with a flag twice, the difference and the flag as numbers, the
operands of 8XY7 in the other order. -/
theorem subtractWritesDifferenceThenNoBorrow :
    Obligations.SubtractWritesDifferenceThenNoBorrow := by
  intro x y s
  obtain ⟨t₅, hexec₅, hframe₅, hpc₅, hx₅, hf₅⟩ := exec_aluWriteFlag_frame (exec_op8XY5 s x y)
  obtain ⟨t₇, hexec₇, hframe₇, hpc₇, hx₇, hf₇⟩ := exec_aluWriteFlag_frame (exec_op8XY7 s x y)
  exact ⟨encodedAs_of_encode rfl (wordXYN_category8 x y 0x5),
    encodedAs_of_encode rfl (wordXYN_category8 x y 0x7),
    ⟨t₅, hexec₅, hframe₅, hpc₅, fun hne => hx₅ hne ▸ sub_toNat_int _ _,
      hf₅.trans (flagByte_noBorrowFlag _ _)⟩,
    ⟨t₇, hexec₇, hframe₇, hpc₇, fun hne => hx₇ hne ▸ sub_toNat_int _ _,
      hf₇.trans (flagByte_noBorrowFlag _ _)⟩⟩

/-- Settles O24: the template with a flag twice, the shifted value and the bit out as numbers. -/
theorem shiftsWriteResultThenBitOut : Obligations.ShiftsWriteResultThenBitOut := by
  intro x y s
  obtain ⟨t₆, hexec₆, hframe₆, hpc₆, hx₆, hf₆⟩ := exec_aluWriteFlag_frame (exec_op8XY6 s x y)
  obtain ⟨tE, hexecE, hframeE, hpcE, hxE, hfE⟩ := exec_aluWriteFlag_frame (exec_op8XYE s x y)
  exact ⟨encodedAs_of_encode rfl (wordXYN_category8 x y 0x6),
    encodedAs_of_encode rfl (wordXYN_category8 x y 0xE),
    ⟨t₆, hexec₆, hframe₆, hpc₆, fun hne => hx₆ hne ▸ ushiftRight_one_toNat _,
      hf₆ ▸ flagByte_shiftedOutRight_toNat _⟩,
    ⟨tE, hexecE, hframeE, hpcE, fun hne => hxE hne ▸ shiftLeft_one_toNat _,
      hfE ▸ flagByte_shiftedOutLeft_toNat _⟩⟩

/-- Settles O25: the flag clauses of O22, O23 and O24, which hold at x = F as at any other x. -/
theorem flagWinsWhenDestinationIsVF : Obligations.FlagWinsWhenDestinationIsVF := by
  intro y s
  obtain ⟨-, t₄, hexec₄, -, -, -, hf₄⟩ := addWritesSumThenCarry 15 y s
  obtain ⟨-, -, ⟨t₅, hexec₅, -, -, -, hf₅⟩, ⟨t₇, hexec₇, -, -, -, hf₇⟩⟩ :=
    subtractWritesDifferenceThenNoBorrow 15 y s
  obtain ⟨-, -, ⟨t₆, hexec₆, -, -, -, hf₆⟩, ⟨tE, hexecE, -, -, -, hfE⟩⟩ :=
    shiftsWriteResultThenBitOut 15 y s
  exact ⟨⟨t₄, hexec₄, hf₄⟩, ⟨t₅, hexec₅, hf₅⟩, ⟨t₆, hexec₆, hf₆⟩, ⟨t₇, hexec₇, hf₇⟩,
    ⟨tE, hexecE, hfE⟩⟩

end Sys2Proof.Machine
end

section
/-! PROOFS. Memory and index: where I goes, and the block of memory an instruction accesses from I on,
or the fault that keeps it from any access (R140 to R147, R188). -/

namespace Sys2Proof.Machine

/-! ### The words of category F (R66, R75) -/

theorem wordXNN_categoryF (x : Reg) (nn : Byte) :
    wordXNN 0xF (regField x) nn = BitVec.ofNat 16 (0xF000 + nn.toNat + 256 * x.val) := by
  rw [wordXNN_regField, Nat.add_right_comm]
  rfl

theorem encode_opFX33 (x : Reg) : encode (.opFX33 x) = BitVec.ofNat 16 (0xF033 + 256 * x.val) :=
  wordXNN_categoryF x 0x33

theorem encode_opFX55 (x : Reg) : encode (.opFX55 x) = BitVec.ofNat 16 (0xF055 + 256 * x.val) :=
  wordXNN_categoryF x 0x55

theorem encode_opFX65 (x : Reg) : encode (.opFX65 x) = BitVec.ofNat 16 (0xF065 + 256 * x.val) :=
  wordXNN_categoryF x 0x65

/-! ### I on its own (R141, R142, R143) -/

/-- The last glyph address is 255 * 5, so it does not wrap (R143). -/
theorem glyphAddr_toNat (b : Byte) : (glyphAddr b).toNat = b.toNat * 5 := by
  have := b.isLt
  rw [glyphAddr, BitVec.toNat_ofNat]
  omega

/-- Settles O26: both loads write I and pc alone, I to its value as a number. -/
theorem indexLoads : Obligations.IndexLoads := by
  intro nnn x s
  have haddr := exec_opANNN s nnn
  have hglyph := exec_opFX29 s x
  exact ⟨encodedAs_of_encode rfl rfl, encodedAs_of_encode rfl (wordXNN_categoryF x 0x29),
    ⟨_, haddr, exec_onlyWrites haddr rfl, zext16_toNat nnn, rfl⟩,
    ⟨_, hglyph, exec_onlyWrites hglyph rfl, glyphAddr_toNat (s.getV x), rfl⟩⟩

/-- The sum that FX1E writes to I, modulo 65536 (decision D3). -/
theorem add_zext_byte_toNat (a : Word) (b : Byte) :
    (a + b.setWidth 16).toNat = (a.toNat + b.toNat) % 65536 := by
  rw [BitVec.toNat_add, BitVec.toNat_setWidth_of_le (by decide)]

theorem flagByte_indexRangeFlag (a : Word) (b : Byte) :
    flagByte (indexRangeFlag a b) = if a.toNat + b.toNat > 0xFFF then 1 else 0 := by
  simp [flagByte, indexRangeFlag]

/-- Settles O27: I is written from V[x] as it was, and the flag is the last write, at x = F too. -/
theorem indexAddSetsRangeFlag : Obligations.IndexAddSetsRangeFlag := by
  intro x s
  have h := exec_opFX1E s x
  exact ⟨encodedAs_of_encode rfl (wordXNN_categoryF x 0x1E), _, h, exec_onlyWrites h rfl, rfl,
    add_zext_byte_toNat s.i (s.getV x),
    (getV_setFlag_same _ _).trans (flagByte_indexRangeFlag s.i (s.getV x))⟩

/-! ### FX33 (R144) -/

@[simp] theorem setMemBytes_errOut (s : State) (cs : List (Nat × Byte)) :
    (s.setMemBytes cs).errOut = s.errOut := by rw [setMemBytes_eq]

/-- Each decimal digit, as a number, is what FX33 leaves at its address. -/
theorem memByte_exec_opFX33_toNat {s t : State} {x : Reg} (hr : InRange s 3)
    (h : exec (.opFX33 x) s = .next t) (k : Nat) {d : Nat}
    (hd : (decimalDigits (s.getV x))[k]? = some (BitVec.ofNat 8 d)) (hlt : d < 256) :
    (t.memByte ((s.i.toNat + k) % 4096)).toNat = d := by
  rw [exec_opFX33_ok s x (addrRange_of_inRange s hr)] at h
  cases h
  obtain ⟨hk, hdigit⟩ := List.getElem?_eq_some_iff.1 hd
  have hbyte := memByte_blockStore s s.i.toNat 3 (decimalDigits (s.getV x)) rfl (by decide) k hk
  rw [State.advance_memByte, hbyte, hdigit, BitVec.toNat_ofNat, Nat.mod_eq_of_lt hlt]

/-- Settles O28: a block store of the three digits, or the fault at the first address out of
range. -/
theorem storeDecimalDigits : Obligations.StoreDecimalDigits := by
  intro x s
  refine ⟨encodedAs_of_encode rfl (encode_opFX33 x), fun hr => ?_, fun hr => ?_⟩
  · have h := exec_opFX33_ok s x (addrRange_of_inRange s hr)
    have hdigit := memByte_exec_opFX33_toNat hr h
    have hv := (s.getV x).isLt
    exact ⟨_, h, exec_onlyWrites h (setMemBytes_errOut s _), congrArg (· + 2) (setMemBytes_pc s _),
      hdigit 0 rfl (by omega), hdigit 1 rfl (by omega), hdigit 2 rfl (by omega)⟩
  · rw [← encode_opFX33]
    exact ⟨_, exec_opFX33_fault s x (addrRange_of_not_inRange s hr), raiseFault_faultTaken s _ _ _⟩

/-! ### FX55 and FX65 (R145, R146) -/

theorem indexPast_toNat (s : State) (x : Reg) :
    (s.indexPast x).toNat = (s.i.toNat + x.val + 1) % 65536 := BitVec.toNat_ofNat _ _

/-- Settles O29: a block store of the registers, or the fault at the first address out of range. -/
theorem storeRegistersAtIndex : Obligations.StoreRegistersAtIndex := by
  intro x s
  refine ⟨encodedAs_of_encode rfl (encode_opFX55 x), fun hr => ?_, fun hr => ?_⟩
  · have h := exec_opFX55_ok s x (addrRange_of_inRange s hr)
    exact ⟨_, h, exec_onlyWrites h (setMemBytes_errOut s _), congrArg (· + 2) (setMemBytes_pc s _),
      indexPast_toNat s x, fun _ hj => memByte_exec_opFX55 hr h hj⟩
  · rw [← encode_opFX55]
    exact ⟨_, exec_opFX55_fault s x (addrRange_of_not_inRange s hr), raiseFault_faultTaken s _ _ _⟩

/-- Each register up to V[x] is the byte that FX65 found at its address. -/
theorem getV_exec_opFX65 {s t : State} {x k : Reg} (hr : InRange s (x.val + 1))
    (h : exec (.opFX65 x) s = .next t) (hk : k.val ≤ x.val) :
    t.getV k = s.memByte ((s.i.toNat + k.val) % 4096) := by
  rw [exec_opFX65_ok s x (addrRange_of_inRange s hr)] at h
  cases h
  have hlt : k.val < x.val + 1 := by omega
  simp [getV_setVs, hlt]

/-- Settles O30: a block load of the registers, or the fault at the first address out of range. -/
theorem loadRegistersFromIndex : Obligations.LoadRegistersFromIndex := by
  intro x s
  refine ⟨encodedAs_of_encode rfl (encode_opFX65 x), fun hr => ?_, fun hr => ?_⟩
  · have h := exec_opFX65_ok s x (addrRange_of_inRange s hr)
    exact ⟨_, h, exec_onlyWrites h rfl, rfl, indexPast_toNat s x,
      fun _ hj => getV_exec_opFX65 hr h hj⟩
  · rw [← encode_opFX65]
    exact ⟨_, exec_opFX65_fault s x (addrRange_of_not_inRange s hr), raiseFault_faultTaken s _ _ _⟩

/-- Whether the addresses from I on are in range depends on the configuration and on I alone. -/
theorem InRange.of_eq {s u : State} {n : Nat} (h : InRange s n) (hc : u.cfg = s.cfg)
    (hi : u.i = s.i) : InRange u n := by
  unfold InRange
  rwa [hc, hi]

/-- Settles O31: FX65 finds at I + j the byte that FX55 left there, and both end at I + x + 1. -/
theorem storeThenLoadRestoresRegisters : Obligations.StoreThenLoadRestoresRegisters := by
  intro x s t u hr hstore hmem hcfg hi
  obtain ⟨-, hstored, -⟩ := storeRegistersAtIndex x s
  obtain ⟨t', ht', -, -, hti, hbytes⟩ := hstored hr
  obtain rfl : t' = t := Host.Outcome.next.inj (ht'.symm.trans hstore)
  obtain ⟨-, hloaded, -⟩ := loadRegistersFromIndex x u
  obtain ⟨v, hv, -, -, hvi, hregs⟩ := hloaded (hr.of_eq (hcfg.trans (exec_cfg hstore)) hi)
  rw [hi] at hvi hregs
  refine ⟨v, hv, BitVec.eq_of_toNat_eq (hvi.trans hti.symm), fun j hj => ?_⟩
  calc v.getV j = u.memByte ((s.i.toNat + j.val) % 4096) := hregs j hj
    _ = t'.memByte ((s.i.toNat + j.val) % 4096) := memByte_eq_of_mem hmem hcfg _
    _ = s.getV j := hbytes j hj

end Sys2Proof.Machine
end

section
/-! PROOFS. Randomness: CXNN writes the draw masked by nn and uses it up, and no other instruction looks
at the draw (R150, R151; decision D16, log 6). -/

namespace Sys2Proof.Machine

/-! ### The draw that a CXNN takes (R151) -/

theorem drawByte_given {s : State} {r : Byte} (h : s.draw = some r) : s.drawByte = r := by
  simp [State.drawByte, h]

theorem drawByte_free {s : State} (h : s.draw = none) :
    s.drawByte = Config.randomByte s.drawCount := by
  simp [State.drawByte, h]

@[simp] theorem State.dropDraw_draw (s : State) : s.dropDraw.draw = none := by
  cases h : s.draw <;> simp [State.dropDraw, h]

theorem dropDraw_drawCount_given {s : State} {r : Byte} (h : s.draw = some r) :
    s.dropDraw.drawCount = s.drawCount := by
  simp [State.dropDraw, h]

theorem dropDraw_drawCount_free {s : State} (h : s.draw = none) :
    s.dropDraw.drawCount = s.drawCount + 1 := by
  simp [State.dropDraw, h]

/-! ### CXNN (R150) -/

/-- Settles O34: CXNN writes `drawByte` masked by nn and drops the draw, and the two clauses are the
two places a draw comes from. -/
theorem randomIsMaskedDraw : Obligations.RandomIsMaskedDraw := by
  intro x nn s
  have h := exec_opCXNN s x nn
  have hx : ((s.dropDraw.setV x (s.drawByte &&& nn)).advance 2).getV x = s.drawByte &&& nn :=
    getV_setV_same s.dropDraw x _
  refine ⟨encodedAs_of_encode rfl (wordXNN_regField 0xC x nn), _, h, exec_onlyWrites h (by simp),
    by simp, s.dropDraw_draw, fun r hd => ?_, fun hd => ?_⟩
  · exact ⟨hx.trans (by rw [drawByte_given hd]), dropDraw_drawCount_given hd⟩
  · exact ⟨hx.trans (by rw [drawByte_free hd]), dropDraw_drawCount_free hd⟩

/-- Settles O35: the event runs the CXNN at the state that was given r, and dropping the draw after it
leaves the registers and pc. -/
theorem stepWithDrawWritesThatDraw : Obligations.StepWithDrawWritesThatDraw := by
  intro x nn r w s hrun hfetch hdec
  obtain ⟨-, t, hexec, -, hpc, -, hgiven, -⟩ := randomIsMaskedDraw x nn (s.giveDraw r)
  obtain ⟨hx, -⟩ := hgiven r rfl
  have hcore : stepCore (s.giveDraw r) = exec (.opCXNN x nn) (s.giveDraw r) :=
    stepCore_exec hrun ((fetchWord_giveDraw s r).trans hfetch) hdec
  exact ⟨t.endDraw, applyEvent_step (hcore.trans hexec), hx, hpc⟩

/-! ### The instructions that do not look at the draw -/

/-- The same state with another draw and another place in the free stream. -/
def State.withDraw (s : State) (d : Option Byte) (k : Nat) : State :=
  { s with draw := d, drawCount := k }

theorem setMemBytes_withDraw (s : State) (d : Option Byte) (k : Nat) (cs : List (Nat × Byte)) :
    (s.withDraw d k).setMemBytes cs = (s.setMemBytes cs).withDraw d k := by
  induction cs generalizing s with
  | nil => rfl
  | cons c cs ih => exact ih (s.setMemByte c.1 c.2)

/-- Every instruction but CXNN takes the same path with another draw, and the updates on that path
leave the draw alone. -/
theorem exec_withDraw {i : Instr} (hi : ∀ x nn, i ≠ .opCXNN x nn) (s : State) (d : Option Byte)
    (k : Nat) : ∃ t, exec i s = .next t ∧ exec i (s.withDraw d k) = .next (t.withDraw d k) := by
  let u := s.withDraw d k
  cases i with
  | opCXNN x nn => exact absurd rfl (hi x nn)
  | op00EE m =>
    rcases Nat.eq_zero_or_pos s.sp.val with hs | hs
    · exact ⟨_, exec_op00EE_underflow s m hs, exec_op00EE_underflow u m hs⟩
    · exact ⟨_, exec_op00EE_ok s m hs, exec_op00EE_ok u m hs⟩
  | op2NNN nnn =>
    rcases Nat.lt_succ_iff_lt_or_eq.1 s.sp.isLt with hs | hs
    · exact ⟨_, exec_op2NNN_ok s nnn hs, exec_op2NNN_ok u nnn hs⟩
    · exact ⟨_, exec_op2NNN_overflow s nnn hs, exec_op2NNN_overflow u nnn hs⟩
  | op3XNN x nn => exact ⟨_, exec_op3XNN s x nn, exec_op3XNN u x nn⟩
  | op4XNN x nn => exact ⟨_, exec_op4XNN s x nn, exec_op4XNN u x nn⟩
  | op5XY0 x y n => exact ⟨_, exec_op5XY0 s x y n, exec_op5XY0 u x y n⟩
  | op9XY0 x y n => exact ⟨_, exec_op9XY0 s x y n, exec_op9XY0 u x y n⟩
  | opEX9E x =>
    cases hk : keyIndex s.cfg (s.getV x) with
    | none => exact ⟨_, exec_opEX9E_fault s x hk, exec_opEX9E_fault u x hk⟩
    | some key => exact ⟨_, exec_opEX9E_ok s x hk, exec_opEX9E_ok u x hk⟩
  | opEXA1 x =>
    cases hk : keyIndex s.cfg (s.getV x) with
    | none => exact ⟨_, exec_opEXA1_fault s x hk, exec_opEXA1_fault u x hk⟩
    | some key => exact ⟨_, exec_opEXA1_ok s x hk, exec_opEXA1_ok u x hk⟩
  | opFX0A x =>
    cases hk : s.firstPressed with
    | none => exact ⟨_, exec_opFX0A_waiting s x hk, exec_opFX0A_waiting u x hk⟩
    | some key => exact ⟨_, exec_opFX0A_pressed s x hk, exec_opFX0A_pressed u x hk⟩
  | opDXYN x y n =>
    cases ha : addrRange s.cfg s.indexAddr n with
    | error bad => exact ⟨_, exec_opDXYN_fault s x y ha, exec_opDXYN_fault u x y ha⟩
    | ok as => exact ⟨_, exec_opDXYN_ok s x y ha, exec_opDXYN_ok u x y ha⟩
  | opFX33 x =>
    cases ha : addrRange s.cfg s.indexAddr 3 with
    | error bad => exact ⟨_, exec_opFX33_fault s x ha, exec_opFX33_fault u x ha⟩
    | ok as =>
      refine ⟨_, exec_opFX33_ok s x ha, (exec_opFX33_ok u x ha).trans ?_⟩
      rw [setMemBytes_withDraw]; rfl
  | opFX55 x =>
    cases ha : addrRange s.cfg s.indexAddr (x.val + 1) with
    | error bad => exact ⟨_, exec_opFX55_fault s x ha, exec_opFX55_fault u x ha⟩
    | ok as =>
      refine ⟨_, exec_opFX55_ok s x ha, (exec_opFX55_ok u x ha).trans ?_⟩
      rw [setMemBytes_withDraw]; rfl
  | opFX65 x =>
    cases ha : addrRange s.cfg s.indexAddr (x.val + 1) with
    | error bad => exact ⟨_, exec_opFX65_fault s x ha, exec_opFX65_fault u x ha⟩
    | ok as => exact ⟨_, exec_opFX65_ok s x ha, exec_opFX65_ok u x ha⟩
  | _ => exact ⟨_, rfl, rfl⟩

/-- Settles O36: the path that the given draw takes is the one that the other draw takes. -/
theorem onlyRandomReadsDraw : Obligations.OnlyRandomReadsDraw := by
  intro i s t d k hi h
  obtain ⟨t', ht', hother⟩ := exec_withDraw hi s d k
  obtain rfl : t' = t := Host.Outcome.next.inj (ht'.symm.trans h)
  exact hother

end Sys2Proof.Machine
end

section
/-! PROOFS. Drawing: DXYN XORs the sprite that the old state holds into the screen, VF says whether
that cleared a cell, and no other instruction looks at the screen (R160 to R165). -/

namespace Sys2Proof.Machine

/-! ### The words of the two instructions (R66, R72) -/

theorem encode_op00E0 (x : Nibble) :
    encode (.op00E0 x) = BitVec.ofNat 16 (0x00E0 + 256 * x.toNat) := by
  apply BitVec.eq_of_toNat_eq
  rw [encode, wordXNN_toNat]
  bv_omega

theorem encode_opDXYN (x y : Reg) {n : Nat} (hn : n < 16) :
    encode (.opDXYN x y n) = BitVec.ofNat 16 (0xD000 + 256 * x.val + 16 * y.val + n) := by
  rw [encode, wordXYN_regField, BitVec.toNat_ofNat, Nat.mod_eq_of_lt hn]
  rfl

theorem encodedAs_opDXYN (x y : Reg) {n : Nat} (hn : n < 16) :
    EncodedAs (.opDXYN x y n) (0xD000 + 256 * x.val + 16 * y.val + n) :=
  encodedAs_of_encode (decide_eq_true hn) (encode_opDXYN x y hn)

/-! ### 00E0 (R164) -/

/-- Settles O37: 00E0 presents the blank screen, all of whose cells are 0. -/
theorem clearScreen : Obligations.ClearScreen := by
  intro x s
  have h := exec_op00E0 s x
  exact ⟨encodedAs_of_encode rfl (encode_op00E0 x), _, h, exec_onlyWrites h rfl, rfl, rfl,
    fun px _ py _ => cell_blankScreen px py⟩

/-! ### The sprite of a DXYN (R161, R162) -/

/-- The rows of the sprite, where the addresses from I on are in range. -/
def State.spriteBytes (s : State) (n : Nat) : List Byte :=
  (List.range n).map fun k => s.memByte ((s.i.toNat + k) % 4096)

@[simp] theorem length_spriteBytes (s : State) (n : Nat) : (s.spriteBytes n).length = n := by
  simp [State.spriteBytes]

/-- The sprite pixel that falls on the cell at column `px`, row `py`: the bit at the cell's
distance, on the wrapped screen, from the corner that V[x] and V[y] name. -/
def State.spritePixel (s : State) (x y : Reg) (n px py : Nat) : Bool :=
  let col := (px + 64 - (s.getV x).toNat % 64) % 64
  let row := (py + 32 - (s.getV y).toNat % 32) % 32
  decide (row < n) && decide (col < 8) &&
    (s.memByte ((s.i.toNat + row) % 4096)).getLsbD (if s.cfg.spriteMsbLeft then 7 - col else col)

/-- Which bit of a sprite byte is the pixel of a column (R162, decision D13). -/
theorem spriteBit_eq (cfg : Config) (b : Byte) (col : Nat) :
    spriteBit cfg b col = b.getLsbD (if cfg.spriteMsbLeft then 7 - col else col) := by
  cases h : cfg.spriteMsbLeft <;> simp [spriteBit, h]

/-- The sprite engine covers a cell exactly where the sprite pixel on it is a 1. -/
theorem spriteCovers_spriteBytes (s : State) (x y : Reg) (n px py : Nat) :
    spriteCovers s.cfg ((s.getV x).toNat % 64) ((s.getV y).toNat % 32) (s.spriteBytes n) px py =
      s.spritePixel x y n px py := by
  unfold spriteCovers State.spritePixel rowBit
  rw [Nat.mod_mod, Nat.mod_mod, State.spriteBytes, List.getElem?_map]
  by_cases hrow : (py + 32 - (s.getV y).toNat % 32) % 32 < n
  · rw [List.getElem?_range hrow]
    simp [hrow, spriteBit_eq]
  · rw [List.getElem?_eq_none (by simpa using hrow)]
    simp [hrow]

/-- The sprite pixels are determined by the registers, I, the memory and the configuration. -/
theorem spritePixel_congr {s t : State} {x y : Reg} (hx : t.getV x = s.getV x)
    (hy : t.getV y = s.getV y) (hi : t.i = s.i) (hc : t.cfg = s.cfg)
    (hm : ∀ a, t.memByte a = s.memByte a) (n : Nat) :
    t.spritePixel x y n = s.spritePixel x y n := by
  funext px py
  simp only [State.spritePixel, hx, hy, hi, hc, hm]

/-- A sprite byte other than 0 has a 1 for the pixel of some column, whichever the bit order. -/
theorem exists_column_of_ne_zero {b : Byte} (hb : b ≠ 0) (msbLeft : Bool) :
    ∃ col < 8, b.getLsbD (if msbLeft then 7 - col else col) = true := by
  obtain ⟨j, hj⟩ : ∃ j, b.getLsbD j = true := by
    simpa using mt BitVec.zero_iff_eq_false.2 hb
  have hj8 : j < 8 := BitVec.lt_of_getLsbD hj
  cases msbLeft with
  | false => exact ⟨j, hj8, hj⟩
  | true => exact ⟨7 - j, by omega, by rwa [if_pos rfl, Nat.sub_sub_self (by omega)]⟩

/-- The pixel in column `col` of row `k` falls on the cell that far from the corner, modulo the
screen (R160). -/
theorem spritePixel_at (s : State) (x y : Reg) {n k col : Nat} (hn : n < 16) (hk : k < n)
    (hcol : col < 8) :
    s.spritePixel x y n (((s.getV x).toNat + col) % 64) (((s.getV y).toNat + k) % 32) =
      (s.memByte ((s.i.toNat + k) % 4096)).getLsbD
        (if s.cfg.spriteMsbLeft then 7 - col else col) := by
  have hpx : (((s.getV x).toNat + col) % 64 + 64 - (s.getV x).toNat % 64) % 64 = col := by omega
  have hpy : (((s.getV y).toNat + k) % 32 + 32 - (s.getV y).toNat % 32) % 32 = k := by omega
  simp [State.spritePixel, hpx, hpy, hk, hcol]

/-- Some sprite pixel is a 1 exactly if some byte of the sprite is not 0: none of the pixels falls
outside the screen. -/
theorem exists_spritePixel_iff (s : State) (x y : Reg) {n : Nat} (hn : n < 16) :
    (∃ px < 64, ∃ py < 32, s.spritePixel x y n px py = true) ↔
      ∃ k < n, s.memByte ((s.i.toNat + k) % 4096) ≠ 0 := by
  constructor
  · rintro ⟨px, -, py, -, hon⟩
    simp only [State.spritePixel, Bool.and_eq_true, decide_eq_true_eq] at hon
    obtain ⟨⟨hrow, -⟩, hbit⟩ := hon
    exact ⟨_, hrow, fun h0 => by simp [h0] at hbit⟩
  · rintro ⟨k, hk, hne⟩
    obtain ⟨col, hcol, hbit⟩ := exists_column_of_ne_zero hne s.cfg.spriteMsbLeft
    exact ⟨_, Nat.mod_lt _ (by decide), _, Nat.mod_lt _ (by decide),
      (spritePixel_at s x y hn hk hcol).trans hbit⟩

/-! ### What a DXYN in range does (R161) -/

/-- The screen and the collision flag that a DXYN in range leaves. -/
def State.drawn (s : State) (x y : Reg) (n : Nat) : Screen × Bool :=
  drawSprite s.cfg (s.getV x) (s.getV y) (s.spriteBytes n) s.gfx

theorem cell_drawn (s : State) (x y : Reg) {n : Nat} (hn : n < 16) (px py : Nat) :
    (s.drawn x y n).1.cell px py = xor (s.gfx.cell px py) (s.spritePixel x y n px py) := by
  rw [State.drawn, drawSprite, drawRows_cell _ _ _ _ _ _ _ (by simp; omega),
    spriteCovers_spriteBytes]

theorem collision_drawn (s : State) (x y : Reg) {n : Nat} (hn : n < 16) :
    (s.drawn x y n).2 = true ↔
      ∃ px < 64, ∃ py < 32, s.gfx.cell px py = true ∧ s.spritePixel x y n px py = true := by
  rw [State.drawn, drawSprite, drawRows_hit _ _ _ _ _ (by simp; omega)]
  simp only [spriteCovers_spriteBytes, Bool.false_eq_true, false_or]

theorem exec_opDXYN_inRange {s : State} {n : Nat} (x y : Reg) (hr : InRange s n) :
    exec (.opDXYN x y n) s =
      .next (((s.setFlag (s.drawn x y n).2).present (s.drawn x y n).1).advance 2) := by
  rw [exec_opDXYN_ok s x y (addrRange_of_inRange s hr), List.map_map]
  rfl

theorem flagByte_eq_one_iff (b : Bool) : flagByte b = 1 ↔ b = true := by cases b <;> decide

theorem flagByte_eq_zero_or_one (b : Bool) : flagByte b = 0 ∨ flagByte b = 1 := by
  cases b <;> decide

section inRange

variable {s t : State} {x y : Reg} {n : Nat} (hn : n < 16) (hr : InRange s n)
  (h : exec (.opDXYN x y n) s = .next t)

include hr h in
theorem eq_of_exec_opDXYN :
    t = ((s.setFlag (s.drawn x y n).2).present (s.drawn x y n).1).advance 2 :=
  Host.Outcome.next.inj (h.symm.trans (exec_opDXYN_inRange x y hr))

include hn hr h in
theorem cell_exec_opDXYN (px py : Nat) :
    t.gfx.cell px py = xor (s.gfx.cell px py) (s.spritePixel x y n px py) := by
  rw [eq_of_exec_opDXYN hr h]
  exact cell_drawn s x y hn px py

include hr h in
theorem getV_regF_exec_opDXYN : t.getV regF = flagByte (s.drawn x y n).2 := by
  rw [eq_of_exec_opDXYN hr h]
  exact getV_setFlag_same s _

include hr h in
theorem getV_regF_exec_opDXYN_zero_or_one : t.getV regF = 0 ∨ t.getV regF = 1 := by
  rw [getV_regF_exec_opDXYN hr h]
  exact flagByte_eq_zero_or_one _

include hn hr h in
theorem getV_regF_exec_opDXYN_eq_one_iff :
    t.getV regF = 1 ↔
      ∃ px < 64, ∃ py < 32, s.gfx.cell px py = true ∧ s.spritePixel x y n px py = true := by
  rw [getV_regF_exec_opDXYN hr h, flagByte_eq_one_iff, collision_drawn s x y hn]

include hr h in
theorem onlyWrites_exec_opDXYN : OnlyWrites (.opDXYN x y n) s t :=
  exec_onlyWrites h (by rw [eq_of_exec_opDXYN hr h]; rfl)

end inRange

/-- Settles O38: in range by the rules on the cells and on VF after a DXYN, or the fault at the
first address out of range. -/
theorem drawXorsSpriteAndReportsCollision : Obligations.DrawXorsSpriteAndReportsCollision := by
  intro x y n s hn
  refine ⟨encodedAs_opDXYN x y hn, fun hr on hon => ?_, fun hr => ?_⟩
  · obtain rfl : on = s.spritePixel x y n := funext fun px => funext (hon px)
    have h := exec_opDXYN_inRange x y hr
    exact ⟨_, h, onlyWrites_exec_opDXYN hr h, rfl, rfl,
      fun px _ py _ => cell_exec_opDXYN hn hr h px py,
      getV_regF_exec_opDXYN_zero_or_one hr h, getV_regF_exec_opDXYN_eq_one_iff hn hr h⟩
  · rw [← encode_opDXYN x y hn]
    exact ⟨_, exec_opDXYN_fault s x y (addrRange_of_not_inRange s hr),
      raiseFault_faultTaken s _ _ _⟩

/-- Where a draw XORs a 1 pixel into the cell `c` and leaves a 1, it has turned the cell on. -/
theorem turned_on_iff (c on : Bool) :
    (xor c on = true ∧ on = true) ↔ (c = false ∧ xor c on = true) := by
  cases c <;> cases on <;> decide

/-- Where a draw XORs a 1 pixel into a cell `c` that is 1, it has turned the cell off. -/
theorem turned_off_iff (c on : Bool) :
    (c = true ∧ on = true) ↔ (c = true ∧ xor c on = false) := by
  cases c <;> cases on <;> decide

/-- Settles O39: the second draw has the sprite pixels of the first, since the first one kept what
they are computed from, and XORing a cell twice with one pixel restores it. -/
theorem drawTwiceRestoresScreen : Obligations.DrawTwiceRestoresScreen := by
  intro x y n s t hn hr h hx hy
  have hframe := onlyWrites_exec_opDXYN hr h
  have hi : t.i = s.i := hframe .index (by simp [writesElem])
  have hmem (a : Nat) : t.memByte a = s.memByte a := hframe (.memByte a) (by simp [writesElem])
  have hsame : t.spritePixel x y n = s.spritePixel x y n :=
    spritePixel_congr hx hy hi (exec_cfg h) hmem n
  have hrt : InRange t n := hr.of_eq (exec_cfg h) hi
  have hu := exec_opDXYN_inRange x y hrt
  have hcell := cell_exec_opDXYN hn hr h
  have hflag := getV_regF_exec_opDXYN_eq_one_iff hn hrt hu
  rw [hsame] at hflag
  refine ⟨_, hu, screen_ext fun px _ py _ => ?_, ?_, fun hclear => ?_⟩
  · rw [cell_exec_opDXYN hn hrt hu, hsame, hcell, Bool.xor_assoc, Bool.xor_self, Bool.xor_false]
  · simpa only [hcell, turned_on_iff] using hflag
  · refine hflag.trans (Iff.trans ?_ (exists_spritePixel_iff s x y hn))
    refine exists_congr fun px => and_congr_right fun hpx => exists_congr fun py =>
      and_congr_right fun hpy => ?_
    rw [hcell, hclear px hpx py hpy, Bool.false_xor, and_self]

/-! ### The instructions that do not look at the screen (R163) -/

/-- The same state with another screen. -/
def State.withGfx (s : State) (g : Screen) : State := { s with gfx := g }

theorem setMemBytes_withGfx (s : State) (g : Screen) (cs : List (Nat × Byte)) :
    (s.withGfx g).setMemBytes cs = (s.setMemBytes cs).withGfx g := by
  induction cs generalizing s with
  | nil => rfl
  | cons c cs ih => exact ih (s.setMemByte c.1 c.2)

theorem dropDraw_withGfx (s : State) (g : Screen) :
    (s.withGfx g).dropDraw = s.dropDraw.withGfx g := by
  cases hd : s.draw <;> simp [State.dropDraw, State.withGfx, hd]

/-- Every instruction but DXYN takes the same path on another screen; 00E0 leaves the blank screen
on both, and the others leave the screen alone. -/
theorem exec_withGfx {i : Instr} (hi : ∀ x y n, i ≠ .opDXYN x y n) (s : State) (g : Screen) :
    ∃ t h, exec i s = .next t ∧ exec i (s.withGfx g) = .next (t.withGfx h) := by
  let u := s.withGfx g
  cases i with
  | opDXYN x y n => exact absurd rfl (hi x y n)
  | op00E0 m => exact ⟨_, blankScreen, exec_op00E0 s m, exec_op00E0 u m⟩
  | op00EE m =>
    rcases Nat.eq_zero_or_pos s.sp.val with hs | hs
    · exact ⟨_, g, exec_op00EE_underflow s m hs, exec_op00EE_underflow u m hs⟩
    · exact ⟨_, g, exec_op00EE_ok s m hs, exec_op00EE_ok u m hs⟩
  | op2NNN nnn =>
    rcases Nat.lt_succ_iff_lt_or_eq.1 s.sp.isLt with hs | hs
    · exact ⟨_, g, exec_op2NNN_ok s nnn hs, exec_op2NNN_ok u nnn hs⟩
    · exact ⟨_, g, exec_op2NNN_overflow s nnn hs, exec_op2NNN_overflow u nnn hs⟩
  | op3XNN x nn => exact ⟨_, g, exec_op3XNN s x nn, exec_op3XNN u x nn⟩
  | op4XNN x nn => exact ⟨_, g, exec_op4XNN s x nn, exec_op4XNN u x nn⟩
  | op5XY0 x y n => exact ⟨_, g, exec_op5XY0 s x y n, exec_op5XY0 u x y n⟩
  | op9XY0 x y n => exact ⟨_, g, exec_op9XY0 s x y n, exec_op9XY0 u x y n⟩
  | opCXNN x nn =>
    refine ⟨_, g, exec_opCXNN s x nn, (exec_opCXNN u x nn).trans ?_⟩
    rw [dropDraw_withGfx]; rfl
  | opEX9E x =>
    cases hk : keyIndex s.cfg (s.getV x) with
    | none => exact ⟨_, g, exec_opEX9E_fault s x hk, exec_opEX9E_fault u x hk⟩
    | some key => exact ⟨_, g, exec_opEX9E_ok s x hk, exec_opEX9E_ok u x hk⟩
  | opEXA1 x =>
    cases hk : keyIndex s.cfg (s.getV x) with
    | none => exact ⟨_, g, exec_opEXA1_fault s x hk, exec_opEXA1_fault u x hk⟩
    | some key => exact ⟨_, g, exec_opEXA1_ok s x hk, exec_opEXA1_ok u x hk⟩
  | opFX0A x =>
    cases hk : s.firstPressed with
    | none => exact ⟨_, g, exec_opFX0A_waiting s x hk, exec_opFX0A_waiting u x hk⟩
    | some key => exact ⟨_, g, exec_opFX0A_pressed s x hk, exec_opFX0A_pressed u x hk⟩
  | opFX33 x =>
    cases ha : addrRange s.cfg s.indexAddr 3 with
    | error bad => exact ⟨_, g, exec_opFX33_fault s x ha, exec_opFX33_fault u x ha⟩
    | ok as =>
      refine ⟨_, g, exec_opFX33_ok s x ha, (exec_opFX33_ok u x ha).trans ?_⟩
      rw [setMemBytes_withGfx]; rfl
  | opFX55 x =>
    cases ha : addrRange s.cfg s.indexAddr (x.val + 1) with
    | error bad => exact ⟨_, g, exec_opFX55_fault s x ha, exec_opFX55_fault u x ha⟩
    | ok as =>
      refine ⟨_, g, exec_opFX55_ok s x ha, (exec_opFX55_ok u x ha).trans ?_⟩
      rw [setMemBytes_withGfx]; rfl
  | opFX65 x =>
    cases ha : addrRange s.cfg s.indexAddr (x.val + 1) with
    | error bad => exact ⟨_, g, exec_opFX65_fault s x ha, exec_opFX65_fault u x ha⟩
    | ok as => exact ⟨_, g, exec_opFX65_ok s x ha, exec_opFX65_ok u x ha⟩
  | _ => exact ⟨_, g, rfl, rfl⟩

/-- Settles O40: VF is 1 exactly if a 1 pixel fell on a 1 cell, which is where XOR turns a cell off,
and VF is 0 exactly if it is not 1; every other instruction takes the same path on any screen. -/
theorem collisionIsAClearedCell : Obligations.CollisionIsAClearedCell := by
  refine ⟨fun x y n s t hn hr h => ?_, fun i s t g hi h => ?_⟩
  · have hone : t.getV regF = 1 ↔
        ∃ px < 64, ∃ py < 32, s.gfx.cell px py = true ∧ t.gfx.cell px py = false := by
      simp only [getV_regF_exec_opDXYN_eq_one_iff hn hr h, cell_exec_opDXYN hn hr h, turned_off_iff]
    have hzero : t.getV regF = 0 ↔ ¬ t.getV regF = 1 := by
      rcases getV_regF_exec_opDXYN_zero_or_one hr h with hf | hf <;> simp [hf]
    refine ⟨hone, hzero.trans ((not_congr hone).trans ?_)⟩
    simp only [not_exists, not_and, Bool.not_eq_false]
  · obtain ⟨t', g', ht', hother⟩ := exec_withGfx hi s g
    obtain rfl : t' = t := Host.Outcome.next.inj (ht'.symm.trans h)
    exact ⟨g', hother⟩

end Sys2Proof.Machine
end

section
/-! PROOFS. Timers and the key wait: FX07, FX15 and FX18 copy one byte, and FX0A waits for a key
(R170 to R173). -/

namespace Sys2Proof.Machine

/-! ### The key wait (R173) -/

/-- A pressed key with none pressed below it is the one that FX0A finds. -/
theorem firstPressed_of_lowest {s : State} {k : Fin 16} (hdown : s.key[k.val] = true)
    (hlow : ∀ j : Fin 16, j.val < k.val → s.key[j.val] = false) : s.firstPressed = some k.val :=
  (firstPressed_eq_some s k.val).2 ⟨k.isLt, hdown, fun j hj => hlow ⟨j, hj.trans k.isLt⟩ hj⟩

/-- A key index fits in a byte, so a register that takes it loses nothing. -/
theorem keyByte_toNat (k : Fin 16) : (BitVec.ofNat 8 k.val).toNat = k.val := by
  rw [BitVec.toNat_ofNat]
  omega

/-- Settles O43: with a key pressed FX0A is an instance of the ALU template without a flag, whose
result is the index of the lowest pressed key; with none pressed it answers the state it was
given. -/
theorem keyWait : Obligations.KeyWait := by
  intro x s
  refine ⟨encodedAs_of_encode rfl (wordXNN_categoryF x 0x0A), fun k hdown hlow => ?_,
    fun hup => ?_⟩
  · obtain ⟨t, hexec, hframe, hx, hpc⟩ :=
      exec_aluWrite_frame (exec_opFX0A_pressed s x (firstPressed_of_lowest hdown hlow))
    exact ⟨t, hexec, hframe, hx ▸ keyByte_toNat k, hpc⟩
  · exact exec_opFX0A_waiting s x ((firstPressed_eq_none s).2 hup)

/-! ### The three copies (R170, R171, R172; decision D22) -/

/-- Settles O42: FX07 is an instance of the ALU template without a flag, and the two others write
one timer and pc. -/
theorem timerCopies : Obligations.TimerCopies := by
  intro x s
  have hdelay := exec_opFX15 s x
  have hsound := exec_opFX18 s x
  exact ⟨encodedAs_of_encode rfl (wordXNN_categoryF x 0x07),
    encodedAs_of_encode rfl (wordXNN_categoryF x 0x15),
    encodedAs_of_encode rfl (wordXNN_categoryF x 0x18),
    exec_aluWrite_frame (exec_opFX07 s x),
    ⟨_, hdelay, exec_onlyWrites hdelay rfl, rfl, rfl⟩,
    ⟨_, hsound, exec_onlyWrites hsound rfl, rfl, rfl⟩⟩

end Sys2Proof.Machine
end

section
/-! PROOFS. What a Step reports: an UNKNOWN word is passed over, and a fatal fault is precise (R182,
R184, R185, R188, R190, R191; decisions D1 and D21). -/

namespace Sys2Proof.Machine

/-- Dropping the draw keeps the agreement of every other element. -/
theorem agree_endDraw {e : Elem} {s t : State} (he : e ≠ .draw) (h : agree e s t) :
    agree e s t.endDraw := by
  cases e with
  | draw => exact absurd rfl he
  | _ => exact h

/-! ### The UNKNOWN word (R185) -/

theorem agree_skipUnknown {e : Elem} (s : State) (w : Word) (herr : e ≠ .errOut) (hpc : e ≠ .pc) :
    agree e s (s.skipUnknown w) := by
  cases e with
  | errOut => exact absurd rfl herr
  | pc => exact absurd rfl hpc
  | _ => rfl

/-- Settles O7: the fetch gives the word with or without a draw, and the Step reports it and passes
it over. -/
theorem stepReportsUnknownWord : Obligations.StepReportsUnknownWord := by
  intro s a b w err hrun ha hb hw hdec
  have hfetch : s.fetchWord = .ok w := (fetchWord_eq ha hb).trans (congrArg Except.ok hw.symm)
  refine ⟨fun r => ?_, fun hsched => ?_⟩
  · have hevent := applyEvent_step (stepCore_unknown (s := s.giveDraw r) hrun hfetch hdec)
    exact ⟨(s.skipUnknown w).endDraw, hevent, rfl, rfl, rfl,
      fun e herr hpc hdraw => agree_endDraw hdraw (agree_skipUnknown s w herr hpc)⟩
  · exact ⟨_, (step_core hsched).trans (stepCore_unknown hrun hfetch hdec), rfl, rfl,
      fun e => agree_skipUnknown s w⟩

/-! ### The fetch past memory (R188, R190) -/

/-- From pc = 0xFFF on one of the two addresses of the fetch is past memory: the second at 0xFFF
itself, and the first above it. -/
theorem fetchWord_pastMemory {s : State} (hpolicy : s.cfg.addrPolicy = .fault)
    (hpc : 0xFFF ≤ s.pc.toNat) : s.fetchWord = .error (max s.pc.toNat 0x1000) := by
  unfold State.fetchWord
  rcases hpc.eq_or_lt with hlast | hpast
  · rw [addr_ok (.inr hlast.ge), addr_error hpolicy (by omega), ← hlast]
    rfl
  · rw [addr_error hpolicy hpast, Nat.max_eq_left hpast]

/-- Settles O8: the fetch faults with or without a draw, and the Step takes that fault. -/
theorem fetchPastMemoryFaults : Obligations.FetchPastMemoryFaults := by
  intro s hrun hpolicy hpc
  have hfetch := fetchWord_pastMemory hpolicy hpc
  refine ⟨fun r => ?_, fun hsched => ?_⟩
  · have hcore := stepCore_fetchFault (s := s.giveDraw r) hrun hfetch
    exact ⟨_, applyEvent_step hcore, raiseFault_faultTaken s.endDraw _ _ _⟩
  · exact ⟨_, (step_core hsched).trans (stepCore_fetchFault hrun hfetch),
      raiseFault_faultTaken s _ _ _⟩

/-! ### Every fault (R184, R191) -/

/-- A Step that halts the core took one fatal fault and did nothing else: on each of its other ways
the core is still running (R190). -/
theorem stepCore_halts {s t : State} (h : stepCore s = .next t) (ht : t.halted = true) :
    ∃ c w info, c.fatal = true ∧ t = s.raiseFault c w info := by
  obtain ⟨hrun, ⟨bad, -, rfl⟩ | ⟨w, e, -, -, rfl⟩ | ⟨w, i, -, -, hi⟩⟩ := stepCore_cases h
  · exact ⟨.addressRange, none, some bad, rfl, rfl⟩
  · exact absurd (hrun.symm.trans ht) Bool.false_ne_true
  · exact (exec_cases hi).resolve_right fun hq =>
      Bool.false_ne_true (hrun.symm.trans (hq.halted.symm.trans ht))

/-- Settles O51: the Step that halts is one fault taken; the draw that the event gives and drops again
is no part of it. -/
theorem faultsArePrecise : Obligations.FaultsArePrecise := by
  refine ⟨fun s t r _ h ht => ?_, fun s t ⟨hsched, _⟩ h ht => ?_⟩
  · obtain ⟨u, hu, rfl⟩ := stepWith_cases h
    obtain ⟨c, w, info, hc, rfl⟩ := stepCore_halts hu ht
    exact ⟨c, w, info, hc, raiseFault_faultTaken s.endDraw c w info⟩
  · obtain ⟨c, w, info, hc, rfl⟩ := stepCore_halts ((step_core hsched).symm.trans h) ht
    exact ⟨c, w, info, hc, raiseFault_faultTaken s c w info⟩

end Sys2Proof.Machine
end

section
/-! PROOFS. Load copies an image that fits, and changes nothing for one that does not (R202, R203;
decision D24, log 9). -/

namespace Sys2Proof.Machine

theorem load_ok {s : State} {rom : List Byte} (h : rom.length ≤ maxRom) :
    s.load rom = (.ok, s.placeBytes programBase rom) := if_neg h.not_gt

theorem load_tooLarge {s : State} {rom : List Byte} (h : maxRom < rom.length) :
    s.load rom = (.tooLarge, s) := if_pos h

/-- Each byte of the list stands at its own address. -/
theorem memByte_placeBytes_add (s : State) (a : Nat) (bs : List Byte) {j : Nat}
    (h : j < bs.length) : (s.placeBytes a bs).memByte (a + j) = bs[j] := by
  rw [memByte_placeBytes, dif_pos ⟨Nat.le_add_right a j, by rwa [Nat.add_sub_cancel_left]⟩]
  simp only [Nat.add_sub_cancel_left]

/-- Placing bytes keeps the agreement of everything but the bytes placed. -/
theorem agree_placeBytes {e : Elem} (s : State) (a : Nat) (bs : List Byte)
    (he : ∀ j < bs.length, e ≠ .memByte (a + j)) : agree e s (s.placeBytes a bs) := by
  cases e with
  | memByte p =>
    refine (memByte_placeBytes s a bs p).trans (dif_neg fun ⟨hle, hlt⟩ => he (p - a) hlt ?_)
    rw [Nat.add_sub_cancel' hle]
  | _ => rw [placeBytes_eq]; rfl

/-- Settles O48: by the length of the image. -/
theorem loadCopiesRom : Obligations.LoadCopiesRom := fun s rom =>
  ⟨fun hfits => ⟨_, load_ok hfits, fun _ => memByte_placeBytes_add s programBase rom,
    fun _ => agree_placeBytes s programBase rom⟩, load_tooLarge⟩

end Sys2Proof.Machine
end

section
/-! PROOFS. The fixed points of the Step: a jump to its own address, with or without V0, and the key
wait with no key pressed (R102, R104, R173, R212; decision D25, log 24). -/

namespace Sys2Proof.Machine

/-! ### Instructions that make no progress -/

/-- From `s` to `t` no progress shows: pc and sp stand, and no record is added. -/
structure Stays (s t : State) : Prop where
  pc : t.pc = s.pc
  sp : t.sp = s.sp
  errOut : t.errOut = s.errOut

/-- In `s` the instruction is a jump to its own address, or the key wait with no key pressed. -/
def LoopsAt (s : State) (i : Instr) : Prop :=
  (∃ nnn, i = .op1NNN nnn ∧ s.pc.toNat = nnn.toNat) ∨
  (∃ nnn, i = .opBNNN nnn ∧ s.pc.toNat = nnn.toNat + (s.getV 0).toNat) ∨
  (∃ x, i = .opFX0A x ∧ ∀ k : Fin 16, s.key[k.val] = false)

/-- The core is running and its next instruction is one that loops. -/
def State.selfLoop (s : State) : Prop :=
  s.running ∧ ∃ w i, s.fetchWord = .ok w ∧ decodeWord w = .ok i ∧ LoopsAt s i

theorem not_stays_advance {s u : State} {k : Word} (hpc : u.pc = s.pc) (hk : k ≠ 0) :
    ¬ Stays s (u.advance k) := by
  intro h
  have hsame : u.pc + k = s.pc := h.pc
  rw [hpc] at hsame
  exact hk (by simpa using hsame)

/-- An instruction that ends with `advance(k)`, and has not moved pc before, moves pc on. -/
theorem not_stays_of_advance {i : Instr} {s t u : State} {k : Word}
    (ha : exec i s = .next (u.advance k)) (hpc : u.pc = s.pc) (hk : k ≠ 0)
    (h : exec i s = .next t) : ¬ Stays s t := by
  rw [ha] at h; cases h
  exact not_stays_advance hpc hk

theorem not_stays_of_fault {i : Instr} {s t : State} {c : Cause} {w : Option Word}
    {info : Option Nat} (hf : exec i s = .next (s.raiseFault c w info)) (h : exec i s = .next t) :
    ¬ Stays s t := fun hst => exec_fault_adds_record hf h hst.errOut

/-- Every instruction moves pc on, moves sp or adds a record, but for the three that loop. -/
theorem loopsAt_of_stays {i : Instr} {s t : State} (h : exec i s = .next t) (hst : Stays s t) :
    LoopsAt s i := by
  cases i with
  | op1NNN nnn =>
    cases h
    exact .inl ⟨nnn, rfl, (congrArg BitVec.toNat hst.pc).symm.trans (zext16_toNat nnn)⟩
  | opBNNN nnn =>
    cases h
    exact .inr (.inl ⟨nnn, rfl,
      (congrArg BitVec.toNat hst.pc).symm.trans (zext16_add_toNat nnn (s.getV 0))⟩)
  | opFX0A x =>
    cases hk : s.firstPressed with
    | none => exact .inr (.inr ⟨x, rfl, (firstPressed_eq_none s).1 hk⟩)
    | some k =>
      exact absurd hst (not_stays_of_advance (exec_opFX0A_pressed s x hk) rfl (by decide) h)
  | op00EE m =>
    rcases Nat.eq_zero_or_pos s.sp.val with hs | hs
    · exact absurd hst (not_stays_of_fault (exec_op00EE_underflow s m hs) h)
    · rw [exec_op00EE_ok s m hs] at h; cases h
      have hsp : s.sp.val - 1 = s.sp.val := congrArg Fin.val hst.sp
      omega
  | op2NNN nnn =>
    rcases Nat.lt_succ_iff_lt_or_eq.1 s.sp.isLt with hs | hs
    · rw [exec_op2NNN_ok s nnn hs] at h; cases h
      have hsp : s.sp.val + 1 = s.sp.val := congrArg Fin.val hst.sp
      omega
    · exact absurd hst (not_stays_of_fault (exec_op2NNN_overflow s nnn hs) h)
  | op3XNN x nn =>
    exact absurd hst (not_stays_of_advance (exec_op3XNN s x nn) rfl (by split <;> decide) h)
  | op4XNN x nn =>
    exact absurd hst (not_stays_of_advance (exec_op4XNN s x nn) rfl (by split <;> decide) h)
  | op5XY0 x y n =>
    exact absurd hst (not_stays_of_advance (exec_op5XY0 s x y n) rfl (by split <;> decide) h)
  | op9XY0 x y n =>
    exact absurd hst (not_stays_of_advance (exec_op9XY0 s x y n) rfl (by split <;> decide) h)
  | opEX9E x =>
    cases hk : keyIndex s.cfg (s.getV x) with
    | none => exact absurd hst (not_stays_of_fault (exec_opEX9E_fault s x hk) h)
    | some k =>
      exact absurd hst (not_stays_of_advance (exec_opEX9E_ok s x hk) rfl (by split <;> decide) h)
  | opEXA1 x =>
    cases hk : keyIndex s.cfg (s.getV x) with
    | none => exact absurd hst (not_stays_of_fault (exec_opEXA1_fault s x hk) h)
    | some k =>
      exact absurd hst (not_stays_of_advance (exec_opEXA1_ok s x hk) rfl (by split <;> decide) h)
  | opCXNN x nn =>
    exact absurd hst (not_stays_of_advance (exec_opCXNN s x nn) (by simp) (by decide) h)
  | opDXYN x y n =>
    cases ha : addrRange s.cfg s.indexAddr n with
    | error bad => exact absurd hst (not_stays_of_fault (exec_opDXYN_fault s x y ha) h)
    | ok as =>
      exact absurd hst (not_stays_of_advance (exec_opDXYN_ok s x y ha) rfl (by decide) h)
  | opFX33 x =>
    cases ha : addrRange s.cfg s.indexAddr 3 with
    | error bad => exact absurd hst (not_stays_of_fault (exec_opFX33_fault s x ha) h)
    | ok as =>
      exact absurd hst (not_stays_of_advance (exec_opFX33_ok s x ha) (by simp) (by decide) h)
  | opFX55 x =>
    cases ha : addrRange s.cfg s.indexAddr (x.val + 1) with
    | error bad => exact absurd hst (not_stays_of_fault (exec_opFX55_fault s x ha) h)
    | ok as =>
      exact absurd hst (not_stays_of_advance (exec_opFX55_ok s x ha) (by simp) (by decide) h)
  | opFX65 x =>
    cases ha : addrRange s.cfg s.indexAddr (x.val + 1) with
    | error bad => exact absurd hst (not_stays_of_fault (exec_opFX65_fault s x ha) h)
    | ok as =>
      exact absurd hst (not_stays_of_advance (exec_opFX65_ok s x ha) rfl (by decide) h)
  | _ => cases h; exact absurd hst (not_stays_advance rfl (by decide))

theorem setPc_self {s : State} {a : Word} (h : s.pc.toNat = a.toNat) : s.setPc a = s := by
  rw [← BitVec.eq_of_toNat_eq h]; rfl

theorem exec_of_loopsAt {i : Instr} {s : State} (h : LoopsAt s i) : exec i s = .next s := by
  obtain ⟨nnn, rfl, hpc⟩ | ⟨nnn, rfl, hpc⟩ | ⟨x, rfl, hup⟩ := h
  · rw [exec_op1NNN, setPc_self (hpc.trans (zext16_toNat nnn).symm)]
  · rw [exec_opBNNN, setPc_self (hpc.trans (zext16_add_toNat nnn (s.getV 0)).symm)]
  · exact exec_opFX0A_waiting s x ((firstPressed_eq_none s).2 hup)

/-! ### Steps that make no progress -/

/-- A fault of the fetch and an UNKNOWN word each add a record, so a Step that shows no progress ran
an instruction that loops. -/
theorem selfLoop_of_stays {s t : State} (h : stepCore s = .next t) (hst : Stays s t) :
    s.selfLoop := by
  obtain ⟨hrun, ⟨bad, -, rfl⟩ | ⟨w, e, -, -, rfl⟩ | ⟨w, i, hf, hd, hi⟩⟩ := stepCore_cases h
  · exact absurd hst.errOut (by simp [State.fetchFault])
  · exact absurd hst.errOut (by simp)
  · exact ⟨hrun, w, i, hf, hd, loopsAt_of_stays hi hst⟩

theorem fixedPoint_iff_selfLoop (s : State) : s.fixedPoint ↔ s.selfLoop := by
  constructor
  · exact fun h => selfLoop_of_stays h ⟨rfl, rfl, rfl⟩
  · rintro ⟨hrun, w, i, hf, hd, hloop⟩
    exact (stepCore_exec hrun hf hd).trans (exec_of_loopsAt hloop)

/-- Whether a Step is a fixed point does not depend on the draw. -/
theorem selfLoop_giveDraw (s : State) (r : Byte) : (s.giveDraw r).selfLoop ↔ s.selfLoop := Iff.rfl

/-- The instructions that loop, read off the word. -/
theorem exists_loopsAt_iff (s : State) (w : Word) :
    (∃ i, decodeWord w = .ok i ∧ LoopsAt s i) ↔
      (∃ nnn, decodeWord w = .ok (.op1NNN nnn) ∧ s.pc.toNat = nnn.toNat) ∨
      (∃ nnn, decodeWord w = .ok (.opBNNN nnn) ∧ s.pc.toNat = nnn.toNat + (s.getV 0).toNat) ∨
      (∃ x, decodeWord w = .ok (.opFX0A x) ∧ ∀ k : Fin 16, s.key[k.val] = false) := by
  constructor
  · rintro ⟨i, hd, ⟨nnn, rfl, h⟩ | ⟨nnn, rfl, h⟩ | ⟨x, rfl, h⟩⟩
    · exact .inl ⟨nnn, hd, h⟩
    · exact .inr (.inl ⟨nnn, hd, h⟩)
    · exact .inr (.inr ⟨x, hd, h⟩)
  · rintro (⟨nnn, hd, h⟩ | ⟨nnn, hd, h⟩ | ⟨x, hd, h⟩)
    · exact ⟨_, hd, .inl ⟨nnn, rfl, h⟩⟩
    · exact ⟨_, hd, .inr (.inl ⟨nnn, rfl, h⟩)⟩
    · exact ⟨_, hd, .inr (.inr ⟨x, rfl, h⟩)⟩

/-- The event Step(r) that changes nothing, the draw apart, is one that shows no progress. -/
theorem applyEvent_step_same_iff (s : State) (r : Byte) :
    applyEvent (.step r) s = .next s.endDraw ↔ s.fixedPoint := by
  rw [fixedPoint_iff_selfLoop, ← selfLoop_giveDraw s r]
  constructor
  · intro h
    obtain ⟨u, hu, hsame⟩ := stepWith_cases h
    have hpc := congrArg State.pc hsame
    have hsp := congrArg State.sp hsame
    have herr := congrArg State.errOut hsame
    exact selfLoop_of_stays hu ⟨hpc.symm, hsp.symm, herr.symm⟩
  · exact fun h => applyEvent_step (u := s.giveDraw r) ((fixedPoint_iff_selfLoop _).2 h)

/-- Settles O55: the fixed points are the states whose next instruction loops; the draw does not show
in them, and with nothing scheduled the step is the Step. -/
theorem fixedPointsOfTheStep : Obligations.FixedPointsOfTheStep := by
  intro s
  refine ⟨(fixedPoint_iff_selfLoop s).trans (and_congr_right fun _ => exists_congr fun w => ?_),
    applyEvent_step_same_iff s, fun hsched => by rw [step_core hsched]; rfl⟩
  rw [← exists_loopsAt_iff, ← exists_and_left]

end Sys2Proof.Machine
end
